-- ==== Sys2Proof/Word.lean ====
section
/-! DEFINITION. The words and the plain records the whole model is written in (00_scope R8, R10; 30_encoding R70, R80). -/

namespace Sys2Proof

/-- A register of the core, or the data of one transaction: 32 bits (20_memory R53, R54). -/
abbrev Word := BitVec 32

/-- A transaction word (30_encoding R70). -/
abbrev TW := BitVec 64

/-- A byte address in the register space (20_memory R50). -/
abbrev Addr := BitVec 8

/-- A byte of the output stream (30_encoding R84). -/
abbrev Byte := BitVec 8

/-- One colour channel, an integer in 0..255 (00_scope R10); its integer is `toNat`. -/
abbrev Chan := BitVec 8

/-- A Color: four channels (00_scope R10). -/
structure Color where
  r : Chan
  g : Chan
  b : Chan
  a : Chan
  deriving DecidableEq, Repr

/-- An Endpoint Pair `(low, high)` (00_scope R10). -/
structure EndpointPair where
  low : Color
  high : Color
  deriving DecidableEq, Repr

/-- A Block: sixteen Colors, `P[4*y + x]` the pixel in column `x` of row `y` (00_scope R10). -/
abbrev Block := Vector Color 16

/-- An Interpolation Table: four Colors (00_scope R10). -/
abbrev Table := Vector Color 4

end Sys2Proof
end

