-- ==== Sys2Proof/Config.lean ====
section
/-! DEFINITION. What is fixed for the machine: the named constants of 00_scope R6, the parameters of R7, and the free values
that stand for `unspecified(N)` (00_scope R11, 10_state R38, R39). A free value is opaque: nothing can be proved of it. -/

namespace Sys2Proof.Config

/-- `N_PIX`: pixels per block (00_scope R6). -/
def nPix : Nat := 16

/-- `N_PAIR`: unordered pixel pairs i < j (00_scope R6). -/
def nPair : Nat := 120

/-- `N_CAND_MAX`: candidates at quality 2 and above (00_scope R6). -/
def nCandMax : Nat := 241

/-- `N_TAB`: table entries (00_scope R6). -/
def nTab : Nat := 4

/-- `PENALTY_W`: outlier penalty weight (00_scope R6, 43 R174). -/
def penaltyW : Nat := 16

/-- `EXTRAP_F` = 1.5 as a fraction, applied to half the channel difference (00_scope R6, 41 R136). -/
def extrapF : Nat × Nat := (3, 2)

/-- `Q_SAT`: quality values above 2 behave as 2 (00_scope R6). -/
def qSat : Nat := 2

/-- The quantizing masks of R, G, B, A: multiples of 8, 4, 8, 128 (00_scope R6, 41 R131). -/
def maskR : Chan := 0xF8#8
def maskG : Chan := 0xFC#8
def maskB : Chan := 0xF8#8
def maskA : Chan := 0x80#8

/-- The blend coefficients `(wH, wL)` of table entries 0..3 (00_scope R6, 30_encoding R86). -/
def blend : List (Nat × Nat) := [(3, 0), (0, 3), (2, 1), (1, 2)]

/-- The divisor of every blend (00_scope R6). -/
def blendDiv : Nat := 3

/-- The score a slot that is not enabled presents to a fixed-size reduction tree (45 R197, D22). -/
def sentinelScore : Nat := 2 ^ 23

/-- The two table orders 42 R161 describes. -/
inductive TableOrder where
  | highFirst
  | lowFirst
  deriving DecidableEq, Repr

/-- `TABLE_ORDER`: HIGH_FIRST, the normative order (00_scope R7, 42 R161, D21). -/
def tableOrder : TableOrder := .highFirst

/-- FREE VALUE (log entry 3): what the `k`-th read of a register that holds no value returns (10_state R38, D27). -/
opaque freeRead : Nat → Word

/-- FREE VALUE (log entry 5): the bits the `k`-th reset leaves in `PIX` (10_state R39: "unspecified (each bit)"). -/
opaque freePix : Nat → Vector Word 16

/-- FREE VALUE (log entry 5): the bits the `k`-th reset leaves in `OUT` (10_state R39). -/
opaque freeOut : Nat → BitVec 64

/-- FREE VALUE (log entry 5): the bits the `k`-th reset leaves in `SCORE` (10_state R39). -/
opaque freeScore : Nat → Word

/-- FREE VALUE (log entry 5): the bits the `k`-th reset leaves in `WINNER` (10_state R39). -/
opaque freeWinner : Nat → BitVec 8

/-- OPEN PARAMETER (log entry 14): the platform's `BASE` in units of 256 bytes (20_memory R50, D3). -/
opaque baseBlock : Nat

/-- The host address of offset 0, a multiple of 256; no rule of the core depends on it (D3). -/
def base : Nat := 256 * baseBlock

/-- OPEN PARAMETER (log entry 11): `T_ENC`, the duration of `cmd.enc`: finite, a number of cycles; no rule depends on it (00_scope R7,
D25), and no definition of the model does. -/
opaque tEnc : Nat

/-- Where the host sees the register at an offset (20_memory R50, R57). -/
def hostAddress (offset : Addr) : Nat := base + offset.toNat

end Sys2Proof.Config
end

