-- ==== Sys2Proof/Syntax.lean ====
section
/-! DEFINITION. The operations: one constructor per row of spec/opcode_table.json (30_encoding R71, R74, R75), and the names of the
registers (30_encoding R72). -/

namespace Sys2Proof

/-- The operations the host can perform, in the order of the opcode table. -/
inductive Instr where
  /-- `wpix n, v` (40 R100) -/
  | wpix (n : Fin 16) (v : Word)
  /-- `wqual v` (40 R101); the whole data word, of which bits 31:8 are ignored -/
  | wqual (v : Word)
  /-- `wimgw v` (40 R102) -/
  | wimgw (v : Word)
  /-- `wimgh v` (40 R103) -/
  | wimgh (v : Word)
  /-- `cmd.nop` (40 R104) -/
  | cmdNop
  /-- `cmd.enc` (40 R106) -/
  | cmdEnc
  /-- `cmd.frame` (40 R107) -/
  | cmdFrame
  /-- `cmd.clrerr` (40 R108) -/
  | cmdClrerr
  /-- `cmd.clrpix` (40 R109) -/
  | cmdClrpix
  /-- `cmd.srst` (40 R110) -/
  | cmdSrst
  /-- `rpix n` (40 R112) -/
  | rpix (n : Fin 16)
  /-- `rqual` (40 R113) -/
  | rqual
  /-- `rimgw` (40 R114) -/
  | rimgw
  /-- `rimgh` (40 R115) -/
  | rimgh
  /-- `rstatus` (40 R116) -/
  | rstatus
  /-- `rerr` (40 R117) -/
  | rerr
  /-- `rpixv` (40 R118) -/
  | rpixv
  /-- `routlo` (40 R119) -/
  | routlo
  /-- `routhi` (40 R120) -/
  | routhi
  /-- `rscore` (40 R121) -/
  | rscore
  /-- `rwinner` (40 R122) -/
  | rwinner
  /-- `rblkcnt` (40 R123) -/
  | rblkcnt
  /-- `rdistlo` (40 R124) -/
  | rdistlo
  /-- `rdisthi` (40 R127) -/
  | rdisthi
  /-- `ill.cmd`: any other write to `CMD` (40 R111) -/
  | illCmd (data : Word)
  /-- `bad.w`: any other write (40 R125) -/
  | badW (addr : Addr) (data : Word)
  /-- `bad.r`: any other read (40 R126) -/
  | badR (addr : Addr)
  deriving DecidableEq, Repr

/-- The registers of the map (30_encoding R72). -/
inductive RegName where
  | pix (n : Fin 16)
  | quality
  | imgW
  | imgH
  | cmd
  | status
  | err
  | pixvld
  | outLo
  | outHi
  | score
  | winner
  | blkCnt
  | distLo
  | distHi
  deriving DecidableEq, Repr

/-- The access rights of a register: RW, RO or WO (30_encoding R72). -/
inductive Access where
  | readWrite
  | readOnly
  | writeOnly
  deriving DecidableEq, Repr

end Sys2Proof
end

