-- ==== Sys2Proof/WellFormed.lean ====
section
/-! DEFINITION. When an operation is one the decoder can answer: the three catch-all rows carry only operands that no exact row
covers (30_encoding R75; 40 R111, R125, R126). Every operand of the other 24 operations is legal. -/

namespace Sys2Proof

/-- 40 R125: the addresses a write may not go to: misaligned, reserved, or a read-only register. -/
def badWriteAddr (a : Addr) : Bool :=
  a.extractLsb' 0 2 != 0#2 || 0x78#8 ≤ a || (0x50#8 ≤ a && a ≤ 0x74#8)

/-- 40 R126: the addresses a read may not come from: misaligned, reserved, or the write-only `CMD`. -/
def badReadAddr (a : Addr) : Bool :=
  a.extractLsb' 0 2 != 0#2 || 0x78#8 ≤ a || a == 0x4C#8

/-- 40 R111: the data of a `CMD` write that is not 0, 1, 2, 3, 4 or 5. -/
def illegalCommandData (d : Word) : Bool :=
  5#32 < d

/-- Well-formed operations. -/
def Instr.wellFormed : Instr → Bool
  | .wpix _ _ => true
  | .wqual _ => true
  | .wimgw _ => true
  | .wimgh _ => true
  | .cmdNop => true
  | .cmdEnc => true
  | .cmdFrame => true
  | .cmdClrerr => true
  | .cmdClrpix => true
  | .cmdSrst => true
  | .rpix _ => true
  | .rqual => true
  | .rimgw => true
  | .rimgh => true
  | .rstatus => true
  | .rerr => true
  | .rpixv => true
  | .routlo => true
  | .routhi => true
  | .rscore => true
  | .rwinner => true
  | .rblkcnt => true
  | .rdistlo => true
  | .rdisthi => true
  | .illCmd d => illegalCommandData d
  | .badW a _ => badWriteAddr a
  | .badR a => badReadAddr a

end Sys2Proof
end

