-- ==== Sys2Proof/Decode.lean ====
section
/-! DEFINITION. The decoder of transaction words, total and rejecting by name, then the encoder, then the opcode table in its
priority order (30_encoding R70 to R76), and the host's reading of a table word. -/

namespace Sys2Proof

/-- Why a 64-bit value spells no transaction (30_encoding R70). -/
inductive Reject where
  /-- a bit of the field 62:40 is set -/
  | reservedBitsSet
  /-- a read (`w = 0`) whose `data` is not 0 -/
  | readWithData
  deriving DecidableEq, Repr

/-- The three fields of a transaction; on the pins `req_write`, `req_addr`, `req_wdata` (30_encoding R70, 70 R282). -/
structure Request where
  write : Bool
  addr : Addr
  data : Word
  deriving DecidableEq, Repr

/-- The fields of a transaction word (30_encoding R70): `w` 63, `zero` 62:40, `addr` 39:32, `data` 31:0. -/
def twWrite (tw : TW) : Bool := tw.getLsbD 63

/-- Bits 62:40, which must be 0 (30_encoding R70). -/
def twZero (tw : TW) : BitVec 23 := tw.extractLsb' 40 23

/-- Bits 39:32 (30_encoding R70). -/
def twAddr (tw : TW) : Addr := tw.extractLsb' 32 8

/-- Bits 31:0 (30_encoding R70). -/
def twData (tw : TW) : Word := tw.extractLsb' 0 32

/-- The request a transaction word carries, or why it carries none (30_encoding R70, R75d). -/
def request (tw : TW) : Except Reject Request :=
  if twZero tw ≠ 0#23 then .error .reservedBitsSet
  else if twWrite tw = false ∧ twData tw ≠ 0#32 then .error .readWithData
  else .ok ⟨twWrite tw, twAddr tw, twData tw⟩

/-- The byte offset of a register (30_encoding R72). -/
def RegName.offset : RegName → Addr
  | .pix n => BitVec.ofNat 8 (4 * n.val)
  | .quality => 0x40#8
  | .imgW => 0x44#8
  | .imgH => 0x48#8
  | .cmd => 0x4C#8
  | .status => 0x50#8
  | .err => 0x54#8
  | .pixvld => 0x58#8
  | .outLo => 0x5C#8
  | .outHi => 0x60#8
  | .score => 0x64#8
  | .winner => 0x68#8
  | .blkCnt => 0x6C#8
  | .distLo => 0x70#8
  | .distHi => 0x74#8

/-- The access rights of a register (30_encoding R72). -/
def RegName.access : RegName → Access
  | .pix _ => .readWrite
  | .quality => .readWrite
  | .imgW => .readWrite
  | .imgH => .readWrite
  | .cmd => .writeOnly
  | .status => .readOnly
  | .err => .readOnly
  | .pixvld => .readOnly
  | .outLo => .readOnly
  | .outHi => .readOnly
  | .score => .readOnly
  | .winner => .readOnly
  | .blkCnt => .readOnly
  | .distLo => .readOnly
  | .distHi => .readOnly

/-- The pixel registers (30_encoding R72). -/
def pixRegs : List RegName :=
  [.pix 0, .pix 1, .pix 2, .pix 3, .pix 4, .pix 5, .pix 6, .pix 7,
   .pix 8, .pix 9, .pix 10, .pix 11, .pix 12, .pix 13, .pix 14, .pix 15]

/-- The thirty registers, by offset (30_encoding R72). -/
def allRegs : List RegName :=
  pixRegs ++
  [.quality, .imgW, .imgH, .cmd, .status, .err, .pixvld, .outLo, .outHi, .score, .winner, .blkCnt, .distLo, .distHi]

/-- The register at an address: none where the address is misaligned or reserved (20 R53, 30 R72, 40 R105 check 1). -/
def regAt (a : Addr) : Option RegName :=
  allRegs.find? fun r => r.offset == a

/-- A write of `d` to `CMD` (10_state R28, 40 R105 check 2): all 32 bits of the data select the command. -/
def decodeCommand (d : Word) : Instr :=
  if d = 0#32 then .cmdNop
  else if d = 1#32 then .cmdEnc
  else if d = 2#32 then .cmdFrame
  else if d = 3#32 then .cmdClrerr
  else if d = 4#32 then .cmdClrpix
  else if d = 5#32 then .cmdSrst
  else .illCmd d

/-- A write of `d` at `a` (30_encoding R74, R75b). -/
def decodeWrite (a : Addr) (d : Word) : Instr :=
  match regAt a with
  | some (.pix n) => .wpix n d
  | some .quality => .wqual d
  | some .imgW => .wimgw d
  | some .imgH => .wimgh d
  | some .cmd => decodeCommand d
  | some .status => .badW a d
  | some .err => .badW a d
  | some .pixvld => .badW a d
  | some .outLo => .badW a d
  | some .outHi => .badW a d
  | some .score => .badW a d
  | some .winner => .badW a d
  | some .blkCnt => .badW a d
  | some .distLo => .badW a d
  | some .distHi => .badW a d
  | none => .badW a d

/-- A read at `a` (30_encoding R74, R75c). -/
def decodeRead (a : Addr) : Instr :=
  match regAt a with
  | some (.pix n) => .rpix n
  | some .quality => .rqual
  | some .imgW => .rimgw
  | some .imgH => .rimgh
  | some .cmd => .badR a
  | some .status => .rstatus
  | some .err => .rerr
  | some .pixvld => .rpixv
  | some .outLo => .routlo
  | some .outHi => .routhi
  | some .score => .rscore
  | some .winner => .rwinner
  | some .blkCnt => .rblkcnt
  | some .distLo => .rdistlo
  | some .distHi => .rdisthi
  | none => .badR a

/-- The operation of a request: total (30_encoding R71). -/
def decodeRequest (q : Request) : Instr :=
  if q.write then decodeWrite q.addr q.data else decodeRead q.addr

/-- The decoder of transaction words: total, and rejecting by name (30_encoding R70, R71, R75). -/
def decode (tw : TW) : Except Reject Instr :=
  match request tw with
  | .ok q => .ok (decodeRequest q)
  | .error e => .error e

/-- The transaction word with the given fields (30_encoding R70): `{w, 23'b0, addr, data}`. -/
def packTW (w : Bool) (a : Addr) (d : Word) : TW :=
  BitVec.ofBool w ++ 0#23 ++ a ++ d

/-- The write of `d` to a register, and the read of one, as transaction words. -/
def writeTW (r : RegName) (d : Word) : TW := packTW true r.offset d

/-- The read of a register as a transaction word; its data is 0 (30_encoding R70). -/
def readTW (r : RegName) : TW := packTW false r.offset 0#32

/-- The encoder: the transaction word of an operation (the "Encoding" line of each rule of 40_host_commands). -/
def encode : Instr → TW
  | .wpix n v => writeTW (.pix n) v
  | .wqual v => writeTW .quality v
  | .wimgw v => writeTW .imgW v
  | .wimgh v => writeTW .imgH v
  | .cmdNop => writeTW .cmd 0#32
  | .cmdEnc => writeTW .cmd 1#32
  | .cmdFrame => writeTW .cmd 2#32
  | .cmdClrerr => writeTW .cmd 3#32
  | .cmdClrpix => writeTW .cmd 4#32
  | .cmdSrst => writeTW .cmd 5#32
  | .rpix n => readTW (.pix n)
  | .rqual => readTW .quality
  | .rimgw => readTW .imgW
  | .rimgh => readTW .imgH
  | .rstatus => readTW .status
  | .rerr => readTW .err
  | .rpixv => readTW .pixvld
  | .routlo => readTW .outLo
  | .routhi => readTW .outHi
  | .rscore => readTW .score
  | .rwinner => readTW .winner
  | .rblkcnt => readTW .blkCnt
  | .rdistlo => readTW .distLo
  | .rdisthi => readTW .distHi
  | .illCmd d => writeTW .cmd d
  | .badW a d => packTW true a d
  | .badR a => packTW false a 0#32

/-- Whether an operation is a write transaction: format W of 30_encoding R70. -/
def Instr.isWrite (i : Instr) : Bool := twWrite (encode i)

/-- A row of the opcode table: a word matches where `(TW & mask) = pattern` (30_encoding R71). -/
structure OpRow where
  mnemonic : String
  pattern : TW
  mask : TW
  make : TW → Instr

/-- The pixel number of a transaction word, `n = addr[5:2]` (30_encoding R73). -/
def twPixel (tw : TW) : Fin 16 := (tw.extractLsb' 34 4).toFin

/-- The write rows of spec/opcode_table.json. -/
def writeRows : List OpRow :=
  [⟨"wpix", 0x8000000000000000#64, 0xFFFFFFC300000000#64, fun tw => .wpix (twPixel tw) (twData tw)⟩,
   ⟨"wqual", 0x8000004000000000#64, 0xFFFFFFFF00000000#64, fun tw => .wqual (twData tw)⟩,
   ⟨"wimgw", 0x8000004400000000#64, 0xFFFFFFFF00000000#64, fun tw => .wimgw (twData tw)⟩,
   ⟨"wimgh", 0x8000004800000000#64, 0xFFFFFFFF00000000#64, fun tw => .wimgh (twData tw)⟩,
   ⟨"cmd.nop", 0x8000004C00000000#64, 0xFFFFFFFFFFFFFFFF#64, fun _ => .cmdNop⟩,
   ⟨"cmd.enc", 0x8000004C00000001#64, 0xFFFFFFFFFFFFFFFF#64, fun _ => .cmdEnc⟩,
   ⟨"cmd.frame", 0x8000004C00000002#64, 0xFFFFFFFFFFFFFFFF#64, fun _ => .cmdFrame⟩,
   ⟨"cmd.clrerr", 0x8000004C00000003#64, 0xFFFFFFFFFFFFFFFF#64, fun _ => .cmdClrerr⟩,
   ⟨"cmd.clrpix", 0x8000004C00000004#64, 0xFFFFFFFFFFFFFFFF#64, fun _ => .cmdClrpix⟩,
   ⟨"cmd.srst", 0x8000004C00000005#64, 0xFFFFFFFFFFFFFFFF#64, fun _ => .cmdSrst⟩]

/-- The read rows of spec/opcode_table.json. -/
def readRows : List OpRow :=
  [⟨"rpix", 0x0000000000000000#64, 0xFFFFFFC3FFFFFFFF#64, fun tw => .rpix (twPixel tw)⟩,
   ⟨"rqual", 0x0000004000000000#64, 0xFFFFFFFFFFFFFFFF#64, fun _ => .rqual⟩,
   ⟨"rimgw", 0x0000004400000000#64, 0xFFFFFFFFFFFFFFFF#64, fun _ => .rimgw⟩,
   ⟨"rimgh", 0x0000004800000000#64, 0xFFFFFFFFFFFFFFFF#64, fun _ => .rimgh⟩,
   ⟨"rstatus", 0x0000005000000000#64, 0xFFFFFFFFFFFFFFFF#64, fun _ => .rstatus⟩,
   ⟨"rerr", 0x0000005400000000#64, 0xFFFFFFFFFFFFFFFF#64, fun _ => .rerr⟩,
   ⟨"rpixv", 0x0000005800000000#64, 0xFFFFFFFFFFFFFFFF#64, fun _ => .rpixv⟩,
   ⟨"routlo", 0x0000005C00000000#64, 0xFFFFFFFFFFFFFFFF#64, fun _ => .routlo⟩,
   ⟨"routhi", 0x0000006000000000#64, 0xFFFFFFFFFFFFFFFF#64, fun _ => .routhi⟩,
   ⟨"rscore", 0x0000006400000000#64, 0xFFFFFFFFFFFFFFFF#64, fun _ => .rscore⟩,
   ⟨"rwinner", 0x0000006800000000#64, 0xFFFFFFFFFFFFFFFF#64, fun _ => .rwinner⟩,
   ⟨"rblkcnt", 0x0000006C00000000#64, 0xFFFFFFFFFFFFFFFF#64, fun _ => .rblkcnt⟩,
   ⟨"rdistlo", 0x0000007000000000#64, 0xFFFFFFFFFFFFFFFF#64, fun _ => .rdistlo⟩,
   ⟨"rdisthi", 0x0000007400000000#64, 0xFFFFFFFFFFFFFFFF#64, fun _ => .rdisthi⟩]

/-- The three catch-all rows, last (30_encoding R71). -/
def catchAllRows : List OpRow :=
  [⟨"ill.cmd", 0x8000004C00000000#64, 0xFFFFFFFF00000000#64, fun tw => .illCmd (twData tw)⟩,
   ⟨"bad.w", 0x8000000000000000#64, 0xFFFFFF0000000000#64, fun tw => .badW (twAddr tw) (twData tw)⟩,
   ⟨"bad.r", 0x0000000000000000#64, 0xFFFFFF00FFFFFFFF#64, fun tw => .badR (twAddr tw)⟩]

/-- spec/opcode_table.json, in file order. -/
def opcodeTable : List OpRow := writeRows ++ readRows ++ catchAllRows

/-- A row matches a word where the masked bits agree (30_encoding R71). -/
def OpRow.covers (r : OpRow) (tw : TW) : Bool := (tw &&& r.mask) == r.pattern

/-- 30_encoding R71 as it is worded: the first row, in file order, whose `(TW & mask) = match`. The decoder above reads the
fields instead; that the two agree on every 64-bit value is the obligation DecoderIsTheTable. -/
def tableDecode (tw : TW) : Option Instr :=
  (opcodeTable.find? fun r => r.covers tw).map fun r => r.make tw

/-- The instruction this decoder reads from the low `nbits` bits of `w`, numbered as the opcode table numbers them. A transaction
word is ONE 64-bit word (30_encoding R76), so the table's numbering is the word's own; bits at `nbits` and above are 0. -/
def decodeTableWord (nbits w : Nat) : Option Instr :=
  if w % 2 ^ nbits < 2 ^ 64 then
    match decode (BitVec.ofNat 64 (w % 2 ^ nbits)) with
    | .ok i => some i
    | .error _ => none
  else none

end Sys2Proof
end

