-- ==== Sys2Proof/Machine/State.lean ====
section
/-! DEFINITION. The state: the spec's registers (10_state R20), and beside them what the model needs of the host: the moves it has
still to perform and the values its reads have returned (10_state R40, 70 R283), with two counters that select free values. -/

namespace Sys2Proof.Machine

/-- The architectural state of the core, "and nothing else" (10_state R20). -/
structure Regs where
  /-- `PIX[0..15]` (R21) -/
  pix : Vector Word 16
  /-- `PIXV` (R22) -/
  pixv : BitVec 16
  /-- `QUALITY` (R23) -/
  quality : BitVec 8
  /-- `IMG_W` (R24) -/
  imgW : Word
  /-- `IMG_H` (R24) -/
  imgH : Word
  /-- `ERR` (R30) -/
  err : BitVec 5
  /-- `RV` (R31) -/
  rv : Bool
  /-- `OUT` (R32) -/
  out : BitVec 64
  /-- `SCORE` (R33) -/
  score : Word
  /-- `WINNER` (R34) -/
  winner : BitVec 8
  /-- `BLK_CNT` (R35) -/
  blkCnt : Word
  /-- `DIST` (R36) -/
  dist : BitVec 64
  deriving DecidableEq, Repr

/-- What the host can do to the core: one transaction, or a reset taken between transactions (00_scope R12, 70 R265, R266). -/
inductive HostMove where
  | transaction (tw : TW)
  | reset
  deriving DecidableEq, Repr

/-- The whole machine: the core's registers and the model's own view of the host (log entries 1, 2, 3, 5). -/
structure State where
  /-- the core (10_state R20) -/
  regs : Regs
  /-- the host's moves not yet performed, oldest first (10_state R40) -/
  pending : List HostMove
  /-- the values the reads have returned, oldest first (70 R283) -/
  reads : List Word
  /-- how many reads have returned `unspecified(32)` (10_state R38) -/
  draws : Nat
  /-- how many resets have been taken (10_state R39) -/
  resets : Nat
  deriving DecidableEq, Repr

/-- Reasons for which the machine stops with a fault: none. Every fault of the spec is a sticky bit of `ERR` and the transaction
completes (60 R236), so it is a next state; the type has no constructor (log entry 10; safe). -/
inductive Fault where
  deriving DecidableEq, Repr

/-- Reasons for which a step has no meaning. -/
inductive Refusal where
  /-- Raised by an arm of `exec` for an instruction without a meaning; no arm does so. Safe: the machine stops. -/
  | notModelled (mnemonic : String)
  /-- Raised by `step` for a pending 64-bit value that spells no transaction (30_encoding R70, R75d; 93 U7: "rejected by the
  decoder, never reaches the machine"). Safe: the machine stops (log entry 6). -/
  | notATransaction (why : Reject)
  deriving DecidableEq, Repr

/-- The registers right after reset (10_state R39). `PIX`, `OUT`, `SCORE`, `WINNER` are unspecified there and hold no value; the
model names 0 for each (DESIGN CHOICE, unsafe, log entry 4). -/
def Regs.reset : Regs where
  pix := #v[0#32, 0#32, 0#32, 0#32, 0#32, 0#32, 0#32, 0#32, 0#32, 0#32, 0#32, 0#32, 0#32, 0#32, 0#32, 0#32]
  pixv := 0x0000#16
  quality := 0x00#8
  imgW := 0#32
  imgH := 0#32
  err := 0b00000#5
  rv := false
  out := 0#64
  score := 0#32
  winner := 0#8
  blkCnt := 0#32
  dist := 0#64

/-- The machine right after reset: the core waits for the first transaction (70 R265). -/
def State.reset : State where
  regs := Regs.reset
  pending := []
  reads := []
  draws := 0
  resets := 0

end Sys2Proof.Machine
end

