-- ==== Sys2Proof/Machine/Flags.lean ====
section
/-! DEFINITION. The flags: the fault codes (60 R237), `ERR` (10_state R30), the derived `STATUS` word (10_state R29) and the valid
bits `PIXV` (10_state R22). There are no arithmetic condition codes (10_state R26). -/

namespace Sys2Proof.Machine

/-- The five faults of the core (60 R237). -/
inductive CoreFault where
  | invalidDimensions
  | incompleteBlock
  | illegalCommand
  | badAccess
  | refused
  deriving DecidableEq, Repr

/-- The code of a fault: the bit of `ERR` it sets (60 R237, 10_state R30). -/
def CoreFault.code : CoreFault → Nat
  | .invalidDimensions => 0
  | .incompleteBlock => 1
  | .illegalCommand => 2
  | .badAccess => 3
  | .refused => 4

/-- `ERR` with only the fault's bit set. -/
def CoreFault.mask (f : CoreFault) : BitVec 5 := BitVec.twoPow 5 f.code

/-- `ERR` after the fault `f`: set by OR (10_state R30, 60 R246). -/
def errWith (e : BitVec 5) (f : CoreFault) : BitVec 5 := e ||| f.mask

/-- `PIXV` after pixel `n` is loaded (10_state R22). -/
def pixvWith (v : BitVec 16) (n : Fin 16) : BitVec 16 := v ||| BitVec.twoPow 16 n.val

/-- `PIXV[n]` (10_state R22). -/
def pixValid (v : BitVec 16) (n : Fin 16) : Bool := v.getLsbD n.val

/-- `BLKRDY`: all sixteen pixels are loaded (10_state R29). -/
def blkRdy (v : BitVec 16) : Bool := v == 0xFFFF#16

/-- `ERRANY` (10_state R29). -/
def errAny (e : BitVec 5) : Bool := e != 0#5

/-- The word a read of `STATUS` returns: `{29'b0, ERRANY, BLKRDY, RV}` (10_state R29, 40 R116). -/
def statusWord (r : Regs) : Word :=
  0#29 ++ BitVec.ofBool (errAny r.err) ++ BitVec.ofBool (blkRdy r.pixv) ++ BitVec.ofBool r.rv

end Sys2Proof.Machine
end

