-- ==== Sys2Proof/Machine/Operands.lean ====
section
/-! DEFINITION. Operand and data forms: how the data of a transaction becomes a register's content (30_encoding R72, R73), the
colour word (R80), the quantized form (R81), the RGB565 endpoint (R82) and the byte forms of a block (R84). -/

namespace Sys2Proof.Machine

/-- `QUALITY <- data[7:0]`; bits 31:8 are ignored (30_encoding R73, 40 R101). -/
def qualityOfData (d : Word) : BitVec 8 := d.extractLsb' 0 8

/-- A narrow register as the read sees it: bits outside the used ones read 0 (30_encoding R72). -/
def zext32 {n : Nat} (v : BitVec n) : Word := v.setWidth 32

/-- The low and high halves of a 64-bit register as its two reads see them (10_state R32, R36). -/
def lowHalf (v : BitVec 64) : Word := v.extractLsb' 0 32

/-- Bits 63:32 of a 64-bit register (10_state R32, R36). -/
def highHalf (v : BitVec 64) : Word := v.extractLsb' 32 32

/-- The Color of a colour word: R bits 7:0, G 15:8, B 23:16, A 31:24 (30_encoding R80). -/
def colorOfWord (w : Word) : Color where
  r := w.extractLsb' 0 8
  g := w.extractLsb' 8 8
  b := w.extractLsb' 16 8
  a := w.extractLsb' 24 8

/-- The colour word of a Color: `{a, b, g, r}` (30_encoding R80). -/
def wordOfColor (c : Color) : Word := c.a ++ c.b ++ c.g ++ c.r

/-- The Block held in the pixel registers (40 R106). -/
def blockOf (pix : Vector Word 16) : Block :=
  ⟨⟨pix.toList.map colorOfWord⟩, by simp⟩

/-- Whether a Color is 5:6:5-quantized (30_encoding R81). -/
def isQuantized (c : Color) : Bool :=
  c.r &&& 0x07#8 == 0#8 && c.g &&& 0x03#8 == 0#8 && c.b &&& 0x07#8 == 0#8 && c.a &&& 0x7F#8 == 0#8

/-- `enc565(c) = {c.r[7:3], c.g[7:2], c.b[7:3]}` (30_encoding R82). -/
def enc565 (c : Color) : BitVec 16 :=
  c.r.extractLsb' 3 5 ++ c.g.extractLsb' 2 6 ++ c.b.extractLsb' 3 5

/-- The four bytes of a register word, least significant first (20_memory R52, 46 R218). -/
def bytesOfWord (w : Word) : List Byte :=
  [w.extractLsb' 0 8, w.extractLsb' 8 8, w.extractLsb' 16 8, w.extractLsb' 24 8]

/-- The 8 bytes of an Encoded Block in stream order: byte `n` is `OUT[8n+7:8n]` (30_encoding R84). -/
def bytesOfBlock (blk : BitVec 64) : List Byte :=
  (List.range 8).map fun n => blk.extractLsb' (8 * n) 8

end Sys2Proof.Machine
end

