-- ==== Sys2Proof/Machine/Ops.lean ====
section
/-! DEFINITION. The named operations over the state: register writes, the reply of a read, raising a fault (60 R236), clearing
faults (60 R242), committing a result, and reset (10_state R39). Each is total. -/

namespace Sys2Proof.Machine

/-- `PIX[n] <- v; PIXV[n] <- 1` (40 R100). -/
def State.loadPixel (s : State) (n : Fin 16) (v : Word) : State :=
  { s with regs := { s.regs with pix := s.regs.pix.set n.val v, pixv := pixvWith s.regs.pixv n } }

/-- `QUALITY <- q` (40 R101). -/
def State.setQuality (s : State) (q : BitVec 8) : State :=
  { s with regs := { s.regs with quality := q } }

/-- `IMG_W <- v` (40 R102). -/
def State.setImgW (s : State) (v : Word) : State :=
  { s with regs := { s.regs with imgW := v } }

/-- `IMG_H <- v` (40 R103). -/
def State.setImgH (s : State) (v : Word) : State :=
  { s with regs := { s.regs with imgH := v } }

/-- `raise F`: `ERR[code(F)] <- 1` and nothing else; no transfer of control, no saved state (60 R236). -/
def State.raise (s : State) (f : CoreFault) : State :=
  { s with regs := { s.regs with err := errWith s.regs.err f } }

/-- `ERR <- 0`, the recovery from a fault (40 R108, 60 R242). -/
def State.clearErr (s : State) : State :=
  { s with regs := { s.regs with err := 0#5 } }

/-- `PIXV <- 0`; the `PIX` registers keep their bits (40 R109). -/
def State.clearPixv (s : State) : State :=
  { s with regs := { s.regs with pixv := 0#16 } }

/-- `RV <- 0`, the fault path of `cmd.enc` (40 R106). -/
def State.dropResult (s : State) : State :=
  { s with regs := { s.regs with rv := false } }

/-- The success path of `cmd.enc`: `OUT`, `SCORE`, `WINNER`, `RV <- 1`, and the totals modulo their widths (40 R106). -/
def State.commitResult (s : State) (blk : BitVec 64) (sc win : Nat) : State :=
  { s with regs := { s.regs with
      out := blk
      score := BitVec.ofNat 32 sc
      winner := BitVec.ofNat 8 win
      rv := true
      dist := s.regs.dist + BitVec.ofNat 64 sc
      blkCnt := s.regs.blkCnt + 1#32 } }

/-- `DIST <- 0; BLK_CNT <- 0`, the success path of `cmd.frame` (40 R107). -/
def State.clearTotals (s : State) : State :=
  { s with regs := { s.regs with dist := 0#64, blkCnt := 0#32 } }

/-- A read returns `v` to the host and changes no register (40 section 4). -/
def State.reply (s : State) (v : Word) : State :=
  { s with reads := s.reads ++ [v] }

/-- A read of a register that holds no value returns a fresh `unspecified(32)` (10_state R38, D27). -/
def State.replyUnspecified (s : State) : State :=
  { s with reads := s.reads ++ [Config.freeRead s.draws], draws := s.draws + 1 }

/-- The reply of a register that holds the value `v` only while `valid` (10_state R38). -/
def State.replyIf (s : State) (valid : Bool) (v : Word) : State :=
  if valid then s.reply v else s.replyUnspecified

/-- The registers after the `k`-th reset of a run: every value 10_state R39 gives; `PIX`, `OUT`, `SCORE`, `WINNER` hold no value,
so their bits are free (log entry 5). -/
def Regs.afterReset (k : Nat) : Regs where
  pix := Config.freePix k
  pixv := 0x0000#16
  quality := 0x00#8
  imgW := 0#32
  imgH := 0#32
  err := 0b00000#5
  rv := false
  out := Config.freeOut k
  score := Config.freeScore k
  winner := Config.freeWinner k
  blkCnt := 0#32
  dist := 0#64

/-- Reset, by the pin or by `cmd.srst`: both leave the reset state (10_state R39, 70 R265, 40 R110). -/
def State.resetCore (s : State) : State :=
  { s with regs := Regs.afterReset s.resets, resets := s.resets + 1 }

/-- Take the host's next move, if it has one (10_state R40). -/
def State.takeMove (s : State) : Option (HostMove × State) :=
  match s.pending with
  | [] => none
  | m :: rest => some (m, { s with pending := rest })

/-- The state in which the host's next move is the transaction `tw`. -/
def State.withMove (s : State) (tw : TW) : State :=
  { s with pending := .transaction tw :: s.pending }

end Sys2Proof.Machine
end

