-- ==== Sys2Proof/Machine/Quantizer.lean ====
section
/-! DEFINITION. candidate_color_quantizer (spec/41): quantize, sort, extrapolate, block extremes, the numbered candidate list.
Every function is total and raises no fault. -/

namespace Sys2Proof.Machine

/-- `quantize(c)`: mask R, G, B, A to multiples of 8, 4, 8, 128 (41 R131). -/
def quantize (c : Color) : Color where
  r := c.r &&& Config.maskR
  g := c.g &&& Config.maskG
  b := c.b &&& Config.maskB
  a := c.a &&& Config.maskA

/-- `sort_and_quantize(a, b)`: ordered by `enc565`, a 16-bit unsigned compare; a tie keeps the input order (41 R134). -/
def sortAndQuantize (a b : Color) : EndpointPair :=
  if enc565 a ≤ enc565 b then ⟨quantize a, quantize b⟩ else ⟨quantize b, quantize a⟩

/-- `floor_div4(x)`: the greatest integer at most `x/4` (41 R137). -/
def floorDiv4 (x : Int) : Int := x.fdiv 4

/-- `clamp(x, 0, 255)` as a channel (00_scope R9, 41 R138). -/
def clampChan (x : Int) : Chan := BitVec.ofNat 8 (min (max x 0) 255).toNat

/-- One channel of `extrapolate`: `a'.ch = clamp(floor_div4(7*a.ch - 3*b.ch), 0, 255)` (41 R138). -/
def extrapolateChan (a b : Chan) : Chan :=
  clampChan (floorDiv4 (7 * (a.toNat : Int) - 3 * (b.toNat : Int)))

/-- The first result of `extrapolate(a, b)`: R, G, B pushed away from `b`, alpha passed through (41 R138). -/
def pushAway (a b : Color) : Color where
  r := extrapolateChan a.r b.r
  g := extrapolateChan a.g b.g
  b := extrapolateChan a.b b.b
  a := a.a

/-- `extrapolate(a, b) -> (a', b')` (41 R138). -/
def extrapolate (a b : Color) : Color × Color := (pushAway a b, pushAway b a)

/-- The smaller of two channels, an 8-bit unsigned compare (41 R148). -/
def chanMin (x y : Chan) : Chan := if y < x then y else x

/-- The larger of two channels (41 R148). -/
def chanMax (x y : Chan) : Chan := if x < y then y else x

/-- The componentwise minimum of two Colors. -/
def colorMin (c d : Color) : Color := ⟨chanMin c.r d.r, chanMin c.g d.g, chanMin c.b d.b, chanMin c.a d.a⟩

/-- The componentwise maximum of two Colors. -/
def colorMax (c d : Color) : Color := ⟨chanMax c.r d.r, chanMax c.g d.g, chanMax c.b d.b, chanMax c.a d.a⟩

/-- `mn` of `minmax(P)`: the componentwise minimum of all sixteen pixels (41 R140). -/
def blockMin (P : Block) : Color := P.toList.foldl colorMin P[0]

/-- `mx` of `minmax(P)`: the componentwise maximum of all sixteen pixels (41 R140). -/
def blockMax (P : Block) : Color := P.toList.foldl colorMax P[0]

/-- `minmax(P) -> (mn, mx)` (41 R140). -/
def minmax (P : Block) : Color × Color := (blockMin P, blockMax P)

/-- Whether two Colors have the same R, G and B: `c.rgb = d.rgb` (00_scope R10). -/
def sameRgb (c d : Color) : Bool := c.r == d.r && c.g == d.g && c.b == d.b

/-- `flat(P)`: `mn.rgb = mx.rgb`, on the raw extremes, alpha ignored (41 R141). -/
def flat (P : Block) : Bool := sameRgb (blockMin P) (blockMax P)

/-- `q_eff = min(QUALITY, 2)` (41 R142). -/
def qEff (quality : BitVec 8) : Nat := min quality.toNat Config.qSat

/-- All pairs of elements of a list at positions `i < j`, in the loop order of 41 R143: `i` outer, `j` inner. -/
def pairsOf {α : Type} : List α → List (α × α)
  | [] => []
  | x :: rest => rest.map (fun y => (x, y)) ++ pairsOf rest

/-- `pidx(i, j) = i * (31 - i) div 2 + (j - i - 1)`: the position of the pair `(i, j)` in that order (41 R144). -/
def pidx (i j : Nat) : Nat := i * (31 - i) / 2 + (j - i - 1)

/-- `cand[0]`: the quantized componentwise extremes (41 R143). -/
def baseline (P : Block) : EndpointPair := ⟨quantize (blockMin P), quantize (blockMax P)⟩

/-- `cand[1..120]`: the plain pairs (41 R143). -/
def plainPairs (P : Block) : List EndpointPair :=
  (pairsOf P.toList).map fun p => sortAndQuantize p.1 p.2

/-- `cand[121..240]`: the extrapolated pairs (41 R143). -/
def extrapolatedPairs (P : Block) : List EndpointPair :=
  (pairsOf P.toList).map fun p => sortAndQuantize (extrapolate p.1 p.2).1 (extrapolate p.1 p.2).2

/-- The candidates after the baseline that an effective quality enables, for a block that is not flat (41 R143). -/
def enabledPairs (P : Block) (q : Nat) : List EndpointPair :=
  (if 1 ≤ q then plainPairs P else []) ++ (if 2 ≤ q then extrapolatedPairs P else [])

/-- `build_endpoints(P, QUALITY) -> cand[0..n-1]`; the candidate number is the position (41 R143). -/
def buildEndpoints (P : Block) (quality : BitVec 8) : List EndpointPair :=
  baseline P :: (if flat P then [] else enabledPairs P (qEff quality))

/-- The candidate list of a machine that omits the flat test (41 R145). -/
def buildEndpointsAlways (P : Block) (quality : BitVec 8) : List EndpointPair :=
  baseline P :: enabledPairs P (qEff quality)

end Sys2Proof.Machine
end

