-- ==== Sys2Proof/Machine/LutBuilder.lean ====
section
/-! DEFINITION. interpolation_lut_builder (spec/42): the four colours one Endpoint Pair can represent. -/

namespace Sys2Proof.Machine

/-- One channel of a table entry: `(wL*low + wH*high) div 3` (42 R160). -/
def blendChan (w : Nat × Nat) (low high : Chan) : Chan :=
  BitVec.ofNat 8 ((w.2 * low.toNat + w.1 * high.toNat) / Config.blendDiv)

/-- A table entry; alpha is blended like the other channels (42 R160). -/
def blendColor (w : Nat × Nat) (low high : Color) : Color where
  r := blendChan w low.r high.r
  g := blendChan w low.g high.g
  b := blendChan w low.b high.b
  a := blendChan w low.a high.a

/-- The coefficient pair `(wH, wL)` of entry `k` (30_encoding R86). -/
def blendOf (k : Nat) : Nat × Nat := Config.blend.getD k (0, 0)

/-- The table in the order `HIGH_FIRST`: entry `k` has the coefficients `k` (42 R160, R161). -/
def tableHighFirst (low high : Color) : Table :=
  #v[blendColor (blendOf 0) low high, blendColor (blendOf 1) low high, blendColor (blendOf 2) low high, blendColor (blendOf 3) low high]

/-- The table in the order `LOW_FIRST`: `low`, `high`, `(2*low + high) div 3`, `(low + 2*high) div 3` (42 R161). -/
def tableLowFirst (low high : Color) : Table :=
  #v[blendColor (blendOf 1) low high, blendColor (blendOf 0) low high, blendColor (blendOf 3) low high, blendColor (blendOf 2) low high]

/-- The table under a value of the switch `TABLE_ORDER` (42 R161). -/
def tableInOrder : Config.TableOrder → Color → Color → Table
  | .highFirst => tableHighFirst
  | .lowFirst => tableLowFirst

/-- `build_table(low, high) -> T[0..3]`, in the normative order (42 R160, R161). -/
def buildTable (low high : Color) : Table := tableInOrder Config.tableOrder low high

end Sys2Proof.Machine
end

