-- ==== Sys2Proof/Machine/Distortion.lean ====
section
/-! DEFINITION. block_distortion_evaluator (spec/43): distance, the nearest table entry, the score of one table. -/

namespace Sys2Proof.Machine

/-- The magnitude of the signed difference of one channel (43 R170). -/
def chanDiff (x y : Chan) : Nat := (x.toNat - y.toNat) + (y.toNat - x.toNat)

/-- `distance(a, b)`: the sum over R, G, B of the squared differences, alpha excluded (43 R170). -/
def distance (a b : Color) : Nat :=
  chanDiff a.r b.r ^ 2 + chanDiff a.g b.g ^ 2 + chanDiff a.b b.b ^ 2

/-- A distance and the table index that attains it (43 R171). -/
abbrev Nearest := Nat × BitVec 2

/-- One step of the scan of 43 R171: strict, an equal distance does not replace. -/
def nearestStep (best : Nearest) (d : Nat) (t : BitVec 2) : Nearest :=
  if d < best.1 then (d, t) else best

/-- `nearest(T, c) -> (m, k)`: the minimum distance and the lowest index that attains it (43 R171). -/
def nearest (T : Table) (c : Color) : Nearest :=
  nearestStep (nearestStep (nearestStep (distance c T[0], 0#2) (distance c T[1]) 1#2) (distance c T[2]) 2#2) (distance c T[3]) 3#2

/-- One comparator of a comparison tree: on equality the lower index (43 R171). -/
def nearestNode (x y : Nearest) : Nearest :=
  if y.1 < x.1 ∨ (y.1 = x.1 ∧ y.2 < x.2) then y else x

/-- `nearest` as a two-level comparison tree (43 R171, the scope note's "argmin tree"). -/
def nearestTree (T : Table) (c : Color) : Nearest :=
  nearestNode (nearestNode (distance c T[0], 0#2) (distance c T[1], 1#2)) (nearestNode (distance c T[2], 2#2) (distance c T[3], 3#2))

/-- The sixteen per-pixel minima (43 R174). -/
def minima (T : Table) (P : Block) : List Nat := P.toList.map fun c => (nearest T c).1

/-- The largest of a list of distances. -/
def maxOf (ms : List Nat) : Nat := ms.foldl max 0

/-- `score(T, P)`: the sum of the minima plus `PENALTY_W` times the largest (43 R174). -/
def score (T : Table) (P : Block) : Nat :=
  (minima T P).sum + Config.penaltyW * maxOf (minima T P)

end Sys2Proof.Machine
end

