-- ==== Sys2Proof/Machine/IndexMapper.lean ====
section
/-! DEFINITION. color_index_mapper (spec/44): the index of each pixel and the index stream. It counts no bits (44 R189). -/

namespace Sys2Proof.Machine

/-- `index_of(T, c)`: the `k` of `nearest(T, c)` (44 R186). -/
def indexOf (T : Table) (c : Color) : BitVec 2 := (nearest T c).2

/-- One step of the accumulation of 44 R187: `acc = (acc << 2) | index`. -/
def pushIndex (k : BitVec 2) (acc : Word) : Word := (acc <<< 2) ||| k.setWidth 32

/-- `encode_indices(T, P) -> stream`: the last pixel is accumulated first (44 R187). -/
def encodeIndices (T : Table) (P : Block) : Word :=
  P.toList.foldr (fun c acc => pushIndex (indexOf T c) acc) 0#32

end Sys2Proof.Machine
end

