-- ==== Sys2Proof/Machine/Selector.lean ====
section
/-! DEFINITION. endpoint_selector_reduction (spec/45): the selection by first minimum, the reduction tree, packing, and the whole
block encode that `cmd.enc` computes. -/

namespace Sys2Proof.Machine

/-- The scan of 45 R196 from candidate `k` on, with the best score and its candidate number so far. -/
def selectFrom (best win k : Nat) : List Nat → Nat
  | [] => win
  | s :: rest => if s < best then selectFrom s k (k + 1) rest else selectFrom best win (k + 1) rest

/-- `select(S[0..n-1]) -> win`: strict, an equal score does not replace (45 R196). -/
def select : List Nat → Nat
  | [] => 0
  | s :: rest => selectFrom s 0 1 rest

/-- A reduction tree of any shape over keys `(S[k], k)` (45 R197). -/
inductive KeyTree where
  | leaf (score k : Nat)
  | node (left right : KeyTree)
  deriving DecidableEq, Repr

/-- The keys at the leaves of a tree, left to right. -/
def KeyTree.keys : KeyTree → List (Nat × Nat)
  | .leaf s k => [(s, k)]
  | .node l r => l.keys ++ r.keys

/-- Whether the key `y` is less than `x`: the smaller score, and on equal scores the smaller candidate number (45 R197). -/
abbrev keyLess (y x : Nat × Nat) : Prop := y.1 < x.1 ∨ (y.1 = x.1 ∧ y.2 < x.2)

/-- One comparator of the reduction: the lexicographically smaller key (45 R197, D22). -/
def keyMin (x y : Nat × Nat) : Nat × Nat :=
  if keyLess y x then y else x

/-- What a reduction tree answers (45 R197). -/
def KeyTree.reduce : KeyTree → Nat × Nat
  | .leaf s k => (s, k)
  | .node l r => keyMin l.reduce r.reduce

/-- The keys of a score list: `(S[k], k)` (45 R197). -/
def keysOf (S : List Nat) : List (Nat × Nat) := S.zip (List.range S.length)

/-- The keys a fixed-size tree of `size` slots is fed: a slot that is not enabled presents the score `2^23` (45 R197, D22). -/
def paddedKeys (S : List Nat) (size : Nat) : List (Nat × Nat) :=
  keysOf S ++ (List.range' S.length (size - S.length)).map fun k => (Config.sentinelScore, k)

/-- `pack(stream, low, high)`: `{stream, enc565(low), enc565(high)}` (45 R198, 30_encoding R83). -/
def pack (stream : Word) (low high : Color) : BitVec 64 := stream ++ enc565 low ++ enc565 high

/-- What `encode_block` answers: `(blk, sc, win)` (45 R200). -/
structure Encoded where
  blk : BitVec 64
  sc : Nat
  win : Nat
  deriving DecidableEq, Repr

/-- The table of a candidate (45 R200). -/
def candTable (c : EndpointPair) : Table := buildTable c.low c.high

/-- `S[0..n-1]`: the score of each candidate's table (45 R200). -/
def scoresOf (cand : List EndpointPair) (P : Block) : List Nat := cand.map fun c => score (candTable c) P

/-- The packed block of the winning candidate: its indices recomputed, its endpoints encoded (45 R200 step 4). -/
def blockWith (c : EndpointPair) (P : Block) : BitVec 64 :=
  pack (encodeIndices (candTable c) P) c.low c.high

/-- The selection and packing of 45 R200 over a candidate list whose scores are `S`. The list is never empty (41 R143); the default
of `getD` stands for no candidate and is never taken. -/
def encodedAt (cand : List EndpointPair) (S : List Nat) (win : Nat) (P : Block) : Encoded where
  blk := blockWith (cand.getD win (baseline P)) P
  sc := S.getD win 0
  win := win

/-- 45 R200 over a given candidate list. -/
def encodeFrom (cand : List EndpointPair) (P : Block) : Encoded :=
  encodedAt cand (scoresOf cand P) (select (scoresOf cand P)) P

/-- `encode_block(P, QUALITY) -> (blk, sc, win)` (45 R200). -/
def encodeBlock (P : Block) (quality : BitVec 8) : Encoded := encodeFrom (buildEndpoints P quality) P

end Sys2Proof.Machine
end

