-- ==== Sys2Proof/Machine/Commands.lean ====
section
/-! DEFINITION. The commands (40_host_commands section 3). `cmd.enc` and `cmd.frame` are refused while a fault is pending; the
others are performed whatever `ERR` holds (R105). -/

namespace Sys2Proof.Machine

/-- `cmd.nop` (40 R104). -/
def execCmdNop (s : State) : Host.Outcome State Fault Refusal := .next s

/-- What `cmd.enc` computes from the registers: a function of `PIX` and `QUALITY` alone (10_state R38, 45 R200). -/
def encodeRegs (r : Regs) : Encoded := encodeBlock (blockOf r.pix) r.quality

/-- The success path of `cmd.enc` (40 R106). -/
def State.encodePixels (s : State) : State :=
  s.commitResult (encodeRegs s.regs).blk (encodeRegs s.regs).sc (encodeRegs s.regs).win

/-- `cmd.enc` (40 R106), in the order of checks of 40 R105. -/
def execCmdEnc (s : State) : Host.Outcome State Fault Refusal :=
  if errAny s.regs.err then .next (s.raise .refused).dropResult
  else if blkRdy s.regs.pixv then .next s.encodePixels
  else .next (s.raise .incompleteBlock).dropResult

/-- Whether a dimension is a multiple of 4: its two low bits are 0 (10_state R24, 40 R107). -/
def multipleOf4 (v : Word) : Bool := v.extractLsb' 0 2 == 0#2

/-- `cmd.frame` (40 R107), in the order of checks of 40 R105. -/
def execCmdFrame (s : State) : Host.Outcome State Fault Refusal :=
  if errAny s.regs.err then .next (s.raise .refused)
  else if multipleOf4 s.regs.imgW && multipleOf4 s.regs.imgH then .next s.clearTotals
  else .next (s.raise .invalidDimensions)

/-- `cmd.clrerr` (40 R108). -/
def execCmdClrerr (s : State) : Host.Outcome State Fault Refusal := .next s.clearErr

/-- `cmd.clrpix` (40 R109). -/
def execCmdClrpix (s : State) : Host.Outcome State Fault Refusal := .next s.clearPixv

/-- `cmd.srst` (40 R110). -/
def execCmdSrst (s : State) : Host.Outcome State Fault Refusal := .next s.resetCore

end Sys2Proof.Machine
end

