-- ==== Sys2Proof/Machine/Malformed.lean ====
section
/-! DEFINITION. The three catch-all operations (40 R111, R125, R126): each raises its fault, always. -/

namespace Sys2Proof.Machine

/-- `ill.cmd`: `ERR.ILLCMD <- 1`, nothing else (40 R111); the data only selects the row. -/
def execIllCmd (_data : Word) (s : State) : Host.Outcome State Fault Refusal := .next (s.raise .illegalCommand)

/-- `bad.w`: `ERR.ACCESS <- 1`, no register is written (40 R125). -/
def execBadW (_addr : Addr) (_data : Word) (s : State) : Host.Outcome State Fault Refusal := .next (s.raise .badAccess)

/-- `bad.r`: `ERR.ACCESS <- 1`, and the read returns 0 (40 R126). -/
def execBadR (_addr : Addr) (s : State) : Host.Outcome State Fault Refusal := .next ((s.raise .badAccess).reply 0#32)

end Sys2Proof.Machine
end

