-- ==== Sys2Proof/Machine/Reads.lean ====
section
/-! DEFINITION. The register reads (40_host_commands section 4): each returns one 32-bit value and changes no register. -/

namespace Sys2Proof.Machine

/-- `rpix n`: `PIX[n]` when `PIXV[n] = 1`, else unspecified (40 R112). -/
def execRpix (n : Fin 16) (s : State) : Host.Outcome State Fault Refusal :=
  .next (s.replyIf (pixValid s.regs.pixv n) (s.regs.pix.get n))

/-- `rqual` (40 R113). -/
def execRqual (s : State) : Host.Outcome State Fault Refusal := .next (s.reply (zext32 s.regs.quality))

/-- `rimgw` (40 R114). -/
def execRimgw (s : State) : Host.Outcome State Fault Refusal := .next (s.reply s.regs.imgW)

/-- `rimgh` (40 R115). -/
def execRimgh (s : State) : Host.Outcome State Fault Refusal := .next (s.reply s.regs.imgH)

/-- `rstatus` (40 R116). -/
def execRstatus (s : State) : Host.Outcome State Fault Refusal := .next (s.reply (statusWord s.regs))

/-- `rerr`: reading does not clear it (40 R117). -/
def execRerr (s : State) : Host.Outcome State Fault Refusal := .next (s.reply (zext32 s.regs.err))

/-- `rpixv` (40 R118). -/
def execRpixv (s : State) : Host.Outcome State Fault Refusal := .next (s.reply (zext32 s.regs.pixv))

/-- `routlo`: `OUT[31:0]` when `RV = 1`, else unspecified (40 R119). -/
def execRoutlo (s : State) : Host.Outcome State Fault Refusal := .next (s.replyIf s.regs.rv (lowHalf s.regs.out))

/-- `routhi`: `OUT[63:32]` when `RV = 1`, else unspecified (40 R120). -/
def execRouthi (s : State) : Host.Outcome State Fault Refusal := .next (s.replyIf s.regs.rv (highHalf s.regs.out))

/-- `rscore`: `SCORE` when `RV = 1`, else unspecified (40 R121). -/
def execRscore (s : State) : Host.Outcome State Fault Refusal := .next (s.replyIf s.regs.rv s.regs.score)

/-- `rwinner`: `zext_32(WINNER)` when `RV = 1`, else unspecified (40 R122). -/
def execRwinner (s : State) : Host.Outcome State Fault Refusal := .next (s.replyIf s.regs.rv (zext32 s.regs.winner))

/-- `rblkcnt` (40 R123). -/
def execRblkcnt (s : State) : Host.Outcome State Fault Refusal := .next (s.reply s.regs.blkCnt)

/-- `rdistlo` (40 R124). -/
def execRdistlo (s : State) : Host.Outcome State Fault Refusal := .next (s.reply (lowHalf s.regs.dist))

/-- `rdisthi` (40 R127). -/
def execRdisthi (s : State) : Host.Outcome State Fault Refusal := .next (s.reply (highHalf s.regs.dist))

end Sys2Proof.Machine
end

