-- ==== Sys2Proof/Machine/Writes.lean ====
section
/-! DEFINITION. The register writes (40_host_commands section 2). They raise no fault and are performed whatever `ERR` holds (R105). -/

namespace Sys2Proof.Machine

/-- `wpix n, v` (40 R100). -/
def execWpix (n : Fin 16) (v : Word) (s : State) : Host.Outcome State Fault Refusal := .next (s.loadPixel n v)

/-- `wqual v` (40 R101). -/
def execWqual (v : Word) (s : State) : Host.Outcome State Fault Refusal := .next (s.setQuality (qualityOfData v))

/-- `wimgw v` (40 R102). -/
def execWimgw (v : Word) (s : State) : Host.Outcome State Fault Refusal := .next (s.setImgW v)

/-- `wimgh v` (40 R103). -/
def execWimgh (v : Word) (s : State) : Host.Outcome State Fault Refusal := .next (s.setImgH v)

end Sys2Proof.Machine
end

