-- ==== Sys2Proof/Machine/Dispatch.lean ====
section
/-! DEFINITION. The dispatch of one transaction's operation to its meaning: one arm per constructor of Instr. -/

namespace Sys2Proof.Machine

def exec (i : Instr) (s : State) : Host.Outcome State Fault Refusal :=
  match i with
  | .wpix n v => Sys2Proof.Machine.execWpix n v s
  | .wqual v => Sys2Proof.Machine.execWqual v s
  | .wimgw v => Sys2Proof.Machine.execWimgw v s
  | .wimgh v => Sys2Proof.Machine.execWimgh v s
  | .cmdNop => Sys2Proof.Machine.execCmdNop s
  | .cmdEnc => Sys2Proof.Machine.execCmdEnc s
  | .cmdFrame => Sys2Proof.Machine.execCmdFrame s
  | .cmdClrerr => Sys2Proof.Machine.execCmdClrerr s
  | .cmdClrpix => Sys2Proof.Machine.execCmdClrpix s
  | .cmdSrst => Sys2Proof.Machine.execCmdSrst s
  | .rpix n => Sys2Proof.Machine.execRpix n s
  | .rqual => Sys2Proof.Machine.execRqual s
  | .rimgw => Sys2Proof.Machine.execRimgw s
  | .rimgh => Sys2Proof.Machine.execRimgh s
  | .rstatus => Sys2Proof.Machine.execRstatus s
  | .rerr => Sys2Proof.Machine.execRerr s
  | .rpixv => Sys2Proof.Machine.execRpixv s
  | .routlo => Sys2Proof.Machine.execRoutlo s
  | .routhi => Sys2Proof.Machine.execRouthi s
  | .rscore => Sys2Proof.Machine.execRscore s
  | .rwinner => Sys2Proof.Machine.execRwinner s
  | .rblkcnt => Sys2Proof.Machine.execRblkcnt s
  | .rdistlo => Sys2Proof.Machine.execRdistlo s
  | .rdisthi => Sys2Proof.Machine.execRdisthi s
  | .illCmd data => Sys2Proof.Machine.execIllCmd data s
  | .badW addr data => Sys2Proof.Machine.execBadW addr data s
  | .badR addr => Sys2Proof.Machine.execBadR addr s

end Sys2Proof.Machine
end

