-- ==== Sys2Proof/Machine/Step.lean ====
section
/-! DEFINITION. One step of the machine: the host's next move, performed completely (00_scope R12). -/

namespace Sys2Proof.Machine

/-- One transaction: decoded, then executed; a value that spells no transaction is refused by name (30_encoding R70, R75d). -/
def stepTransaction (tw : TW) (s : State) : Host.Outcome State Fault Refusal :=
  match decode tw with
  | .ok i => exec i s
  | .error e => .refused (.notATransaction e)

/-- One step. With no move pending the core waits and nothing changes (70 R265, R283; log entry 15); a reset is taken between
transactions (70 R265, R266); a transaction runs to completion (00_scope R12). -/
def step (s : State) : Host.Outcome State Fault Refusal :=
  match s.takeMove with
  | none => .next s
  | some (.reset, rest) => .next rest.resetCore
  | some (.transaction tw, rest) => stepTransaction tw rest

/-- `s` with the operation whose bits are `w` (numbered as the opcode table numbers them) as the host's next move, before the moves
already pending. A transaction word is 64 bits (30_encoding R76); bits at `nbits` and above are 0. -/
def State.withFetchWord (s : State) (nbits w : Nat) : State :=
  s.withMove (BitVec.ofNat 64 (w % 2 ^ nbits))

end Sys2Proof.Machine
end

