-- ==== Sys2Proof/Machine/HostContract.lean ====
section
/-! DEFINITION. What the host does around the core (spec/46): the pseudo-operations (30_encoding R78), the blocks of an image, the
output stream, and the host's sequence for one image. The image and the stream belong to the host (10_state R40): none of this is
state of the machine. -/

namespace Sys2Proof.Machine

/-- `ldblk c0, ..., c15`: the sixteen `wpix` in order (30_encoding R78). -/
def ldblk (ws : Vector Word 16) : List Instr := (List.finRange 16).map fun n => .wpix n (ws.get n)

/-- `fill c`: sixteen times the same colour word (30_encoding R78). -/
def fill (w : Word) : List Instr := ldblk (Vector.replicate 16 w)

/-- `getblk`: `routlo` then `routhi` (30_encoding R78). -/
def getblk : List Instr := [.routlo, .routhi]

/-- `getdist`: `rdistlo` then `rdisthi` (30_encoding R78). -/
def getdist : List Instr := [.rdistlo, .rdisthi]

/-- `frame W, H` (30_encoding R78). -/
def frameOps (w h : Word) : List Instr := [.wimgw w, .wimgh h, .cmdFrame]

/-- `encblk Q, c0, ..., c15` (30_encoding R78). -/
def encblk (q : Word) (ws : Vector Word 16) : List Instr :=
  .wqual q :: ldblk ws ++ [.cmdEnc] ++ getblk ++ [.rscore]

/-- Do `f` after an outcome, if it is a next state. -/
def thenDo {α β : Type} (o : Host.Outcome α Fault Refusal) (f : α → Host.Outcome β Fault Refusal) : Host.Outcome β Fault Refusal :=
  match o with
  | .next a => f a
  | .fault r => .fault r
  | .refused r => .refused r

/-- The operations of a list performed one after another (10_state R25, 20_memory R59). -/
def runOps : List Instr → State → Host.Outcome State Fault Refusal
  | [], s => .next s
  | i :: rest, s => thenDo (exec i s) (runOps rest)

/-- The host's moves that perform the operations of a list. -/
def movesOf (ops : List Instr) : List HostMove := ops.map fun i => .transaction (encode i)

/-- The value the host's latest read returned. -/
def lastRead (s : State) : Word := s.reads.getLastD 0#32

/-- An Image: a width, a height, and the Color at column `x` of row `y` (46 R215). -/
structure Image where
  width : Nat
  height : Nat
  pixel : Nat → Nat → Color

/-- The block in column `bx` of block row `br`: `P[4*y + x] = img(4*bx + x, 4*br + y)` (46 R216). -/
def blockAt (img : Image) (bx br : Nat) : Block :=
  ⟨⟨(List.range 16).map fun k => img.pixel (4 * bx + k % 4) (4 * br + k / 4)⟩, by simp⟩

/-- The blocks of an image in row-major order, `bx` fastest (46 R216, 90_conflicts C4). -/
def blocksOf (img : Image) : List Block :=
  (List.range (img.height / 4)).flatMap fun br => (List.range (img.width / 4)).map fun bx => blockAt img bx br

/-- Whether the dimensions are multiples of 4 (46 R215, R220). -/
def dimensionsValid (img : Image) : Bool := img.width % 4 == 0 && img.height % 4 == 0

/-- What `encode(image, quality)` answers: a byte stream, or InvalidDimensions and no byte (46 R215, R220). The host's sequence has a
third answer: the stream is discarded because a fault was pending at the end (46 R217, 70 R277). -/
inductive ImageResult where
  | stream (bytes : List Byte)
  | invalidDimensions
  | discarded
  deriving DecidableEq, Repr

/-- The output stream of an image: 8 bytes per block, in block order (46 R218, 30_encoding R87). -/
def streamOf (img : Image) (quality : BitVec 8) : List Byte :=
  (blocksOf img).flatMap fun P => bytesOfBlock (encodeBlock P quality).blk

/-- `encode(image, quality)`: the call the host reproduces (46 R215). -/
def encodeImage (img : Image) (quality : BitVec 8) : ImageResult :=
  if dimensionsValid img then .stream (streamOf img quality) else .invalidDimensions

/-- The total distortion of an image: the sum of its blocks' scores (46 R221). -/
def totalDistortion (img : Image) (quality : BitVec 8) : Nat :=
  ((blocksOf img).map fun P => (encodeBlock P quality).sc).sum

/-- The mean per-pixel distortion the host computes from `DIST` and `BLK_CNT`; for no block it reports nothing (46 R222). -/
def meanDistortion (dist blkCnt : Nat) : Option ℚ :=
  if blkCnt = 0 then none else some ((dist : ℚ) / (16 * blkCnt : ℚ))

/-- The colour words of a Block (30_encoding R80). -/
def wordsOfBlock (P : Block) : Vector Word 16 := ⟨⟨P.toList.map wordOfColor⟩, by simp⟩

/-- "rerr -> must be 0, else cmd.clrerr or cmd.srst first" (46 R217); the host takes `cmd.clrerr` (log entry 16). -/
def hostClearFaults (s : State) : Host.Outcome State Fault Refusal :=
  thenDo (exec .rerr s) fun s1 => if lastRead s1 = 0#32 then .next s1 else exec .cmdClrerr s1

/-- Load one block, encode it, and append the bytes of its two result words to the stream (46 R217 steps 2 and 3, R218). -/
def hostBlock (P : Block) (sb : State × List Byte) : Host.Outcome (State × List Byte) Fault Refusal :=
  thenDo (runOps (ldblk (wordsOfBlock P) ++ [.cmdEnc, .routlo]) sb.1) fun s1 =>
  thenDo (exec .routhi s1) fun s2 =>
  .next (s2, sb.2 ++ bytesOfWord (lastRead s1) ++ bytesOfWord (lastRead s2))

/-- All the blocks of an image, in order (46 R217). -/
def hostBlocks : List Block → State × List Byte → Host.Outcome (State × List Byte) Fault Refusal
  | [], sb => .next sb
  | P :: rest, sb => thenDo (hostBlock P sb) (hostBlocks rest)

/-- The end of the host's sequence: read `ERR` and discard the stream if it is not 0 (70 R277: "must read `STATUS` (or `ERR`) at least
once after the last `cmd.enc` of a batch and discard the batch"; 46 R217). The spec leaves open which of the two registers is read and
how often; DESIGN CHOICE: this host reads `rerr` once, after the totals (log entry 16). -/
def hostFinish (bytes : List Byte) (s : State) : Host.Outcome (State × ImageResult) Fault Refusal :=
  thenDo (exec .rerr s) fun s1 => .next (s1, if lastRead s1 = 0#32 then .stream bytes else .discarded)

/-- The steps after a successful `frame`: the quality, the blocks, the totals (46 R217 steps 2 to 4), and the check of `ERR` at the end.
DESIGN CHOICE (log entry 16): no `rstatus` between the blocks, `rerr` once at the end; R217 and R277 allow either. -/
def hostEncodeBlocks (img : Image) (quality : BitVec 8) (s : State) : Host.Outcome (State × ImageResult) Fault Refusal :=
  thenDo (exec (.wqual (zext32 quality)) s) fun s1 =>
  thenDo (hostBlocks (blocksOf img) (s1, [])) fun sb =>
  thenDo (runOps (getdist ++ [.rblkcnt]) sb.1) fun s2 =>
  hostFinish sb.2 s2

/-- The host's sequence for one image (46 R217): clear faults, `frame W, H`, stop on InvalidDimensions with no byte, else encode. -/
def hostEncode (img : Image) (quality : BitVec 8) (s : State) : Host.Outcome (State × ImageResult) Fault Refusal :=
  thenDo (hostClearFaults s) fun s1 =>
  thenDo (runOps (frameOps (BitVec.ofNat 32 img.width) (BitVec.ofNat 32 img.height) ++ [.rerr]) s1) fun s2 =>
  if (lastRead s2).getLsbD 0 then .next (s2, .invalidDimensions) else hostEncodeBlocks img quality s2

end Sys2Proof.Machine
end

