-- ==== Sys2Proof/Safety.lean ====
section
/-! DEFINITION. What counts as a safe run and a ready state, the invariants, and the relation of states that the host cannot tell
apart, in the terms the statements use. -/

namespace Sys2Proof.Machine

/-- `cmd.enc` runs to a result: no fault pending and all sixteen pixels loaded (40 R106, 60 R239). -/
def State.encReady (s : State) : Prop := s.regs.err = 0#5 ∧ s.regs.pixv = 0xFFFF#16

/-- `cmd.frame` passes: no fault pending and both dimensions multiples of 4 (40 R107). -/
def State.frameReady (s : State) : Prop :=
  s.regs.err = 0#5 ∧ s.regs.imgW.toNat % 4 = 0 ∧ s.regs.imgH.toNat % 4 = 0

/-- A run from `s` that ended in `t` has gone wrong: `ERR /= 0` at its end, or it read a register that held no value (70 R283, 60 R246).
DESIGN CHOICE (log entry 21): R283 says "read ... and used the draw" and does not say when a draw is used; here every draw counts,
whatever the host does with the word. -/
def runGoneWrong (s t : State) : Prop := t.regs.err ≠ 0#5 ∨ t.draws ≠ s.draws

/-- Everything of the state but the core's registers is as before: the host's moves, the values read, the counters. -/
def sameHost (s t : State) : Prop :=
  t.pending = s.pending ∧ t.reads = s.reads ∧ t.draws = s.draws ∧ t.resets = s.resets

/-- The operation clears faults: `cmd.clrerr` or `cmd.srst` (10_state R30). -/
def clearsFaults (i : Instr) : Bool := i == .cmdClrerr || i == .cmdSrst

/-- The values 10_state R39 gives: those of every register that holds a value after reset. -/
def Regs.resetValues (r : Regs) : Prop :=
  r.pixv = 0#16 ∧ r.quality = 0#8 ∧ r.imgW = 0#32 ∧ r.imgH = 0#32 ∧ r.err = 0#5 ∧ r.rv = false ∧ r.blkCnt = 0#32 ∧ r.dist = 0#64

/-- The result registers describe an encode: while `RV = 1`, `OUT`, `SCORE` and `WINNER` are what `encode_block` gives for some block
and quality (10_state R31 to R34, R38). -/
def State.resultInv (s : State) : Prop :=
  s.regs.rv = true → ∃ (P : Block) (q : BitVec 8),
    s.regs.out = (encodeBlock P q).blk ∧ s.regs.score.toNat = (encodeBlock P q).sc ∧ s.regs.winner.toNat = (encodeBlock P q).win

/-- The largest score: 16 * 195 075 + 16 * 195 075 (43 R176). -/
def maxScore : Nat := 6242400

/-- The totals are consistent: `DIST` is at most `BLK_CNT` largest scores (10_state R36). -/
def State.totalsInv (s : State) : Prop := s.regs.dist.toNat ≤ s.regs.blkCnt.toNat * maxScore

/-- Two register files the host cannot tell apart: equal but for the bits of registers that hold no value (10_state R38). -/
def Regs.sameVisible (r r' : Regs) : Prop :=
  r.pixv = r'.pixv ∧ r.quality = r'.quality ∧ r.imgW = r'.imgW ∧ r.imgH = r'.imgH ∧ r.err = r'.err ∧ r.rv = r'.rv ∧
  r.blkCnt = r'.blkCnt ∧ r.dist = r'.dist ∧
  (∀ n : Fin 16, pixValid r.pixv n = true → r.pix.get n = r'.pix.get n) ∧
  (r.rv = true → r.out = r'.out ∧ r.score = r'.score ∧ r.winner = r'.winner)

/-- Two states the host cannot tell apart: the registers so, the same moves pending, the same values read so far. -/
def State.sameVisible (s s' : State) : Prop :=
  s.regs.sameVisible s'.regs ∧ s.pending = s'.pending ∧ s.reads = s'.reads ∧ s.draws = s'.draws ∧ s.resets = s'.resets

end Sys2Proof.Machine
end

