-- ==== Sys2Proof/Certificates/Slice0/Obligations.lean ====
section
/-! DEFINITION. The statements for the provers, each from the numbered rules of spec/. -/

open Sys2Proof Sys2Proof.Machine

/-! ### The step and the decoder -/

/-- 00_scope R12: one step is one host transaction, performed completely. The host's moves are the model's own field (log entry 1):
the step takes the first pending move, decodes it, and runs `exec` on the rest of the state. -/
def Obligations.StepRunsTheDecodedTransaction : Prop :=
  ∀ (s : State) (tw : TW) (rest : List HostMove) (i : Instr),
    s.pending = .transaction tw :: rest → decode tw = .ok i → step s = exec i { s with pending := rest }

/-- 30_encoding R75d, 93 U7: a value that is not a valid transaction word never reaches the machine (the model's refusal, log entry 6). -/
def Obligations.StepRefusesWhatSpellsNoTransaction : Prop :=
  ∀ (s : State) (tw : TW) (rest : List HostMove) (e : Reject),
    s.pending = .transaction tw :: rest → decode tw = .error e → step s = .refused (.notATransaction e)

/-- 70 R265, R266, R283: with nothing pending the core waits (log entry 15); a reset between transactions gives the reset values. -/
def Obligations.StepWaitsAndTakesResets : Prop :=
  (∀ s : State, s.pending = [] → step s = .next s) ∧
  (∀ (s : State) (rest : List HostMove), s.pending = .reset :: rest →
    ∃ t, step s = .next t ∧ t.regs.resetValues ∧ t.pending = rest ∧ t.reads = s.reads ∧ t.draws = s.draws)

/-- 10_state R25, 20_memory R59: the order of operations is the order in which the host issues transactions. Stepping through the
encoded operations of a list is performing the list. That the host's transactions stand in the list `pending` is the model's choice
(log entry 1). -/
def Obligations.StepsPerformTheHostsSequence : Prop :=
  ∀ (ops : List Instr) (rest : List HostMove) (s : State),
    (∀ i ∈ ops, i.wellFormed = true) → s.pending = movesOf ops ++ rest →
    Host.Core.run core ops.length s = runOps ops { s with pending := rest }

/-- Words written out from 30_encoding R70, R72, R74, R75. -/
def Obligations.HandWrittenWordsDecode : Prop :=
  decode 0x80000014FFFFFFFF#64 = .ok (.wpix 5 0xFFFFFFFF#32) ∧
  decode 0x8000004000000002#64 = .ok (.wqual 2#32) ∧
  decode 0x8000004C00000001#64 = .ok .cmdEnc ∧
  decode 0x0000001400000000#64 = .ok (.rpix 5) ∧
  decode 0x0000005C00000000#64 = .ok .routlo ∧
  decode 0x8000004C00000011#64 = .ok (.illCmd 0x11#32) ∧
  decode 0x8000006400000005#64 = .ok (.badW 0x64#8 5#32) ∧
  decode 0x0000004C00000000#64 = .ok (.badR 0x4C#8)

/-- 30_encoding R70 to R75: no operand bit of any operation is lost in its word. -/
def Obligations.DecodeEncodeRoundTrip : Prop :=
  ∀ i : Instr, i.wellFormed = true → decode (encode i) = .ok i

/-- 30_encoding R70, R71: a valid word has exactly one meaning, and that meaning's word is the word itself. -/
def Obligations.EncodeDecodeRoundTrip : Prop :=
  ∀ (tw : TW) (i : Instr), decode tw = .ok i → encode i = tw ∧ i.wellFormed = true

/-- 30_encoding R71: the operation of a valid word is the first row of the opcode table that matches, and there always is one. -/
def Obligations.DecoderIsTheOpcodeTable : Prop :=
  ∀ (tw : TW) (q : Request), request tw = .ok q → ∃ i, tableDecode tw = some i ∧ decode tw = .ok i

/-- 30_encoding R70: which 64-bit values spell a transaction, and the fields of those that do. -/
def Obligations.ExactlyTheInvalidWordsAreRejected : Prop :=
  ∀ tw : TW,
    (tw.toNat / 2 ^ 40 % 2 ^ 23 ≠ 0 ∨ (tw.toNat / 2 ^ 63 = 0 ∧ tw.toNat % 2 ^ 32 ≠ 0) → ∃ e, decode tw = .error e) ∧
    (tw.toNat / 2 ^ 40 % 2 ^ 23 = 0 → (tw.toNat / 2 ^ 63 = 0 → tw.toNat % 2 ^ 32 = 0) →
      request tw = .ok ⟨decide (tw.toNat / 2 ^ 63 = 1), BitVec.ofNat 8 (tw.toNat / 2 ^ 32), BitVec.ofNat 32 tw.toNat⟩ ∧
      ∃ i, decode tw = .ok i)

/-! ### Reset -/

/-- 10_state R39: the values after hardware reset, after `cmd.srst`, and in the state the machine starts from. -/
def Obligations.ResetLeavesTheListedValues : Prop :=
  State.reset.regs.resetValues ∧
  (∀ (s : State) (rest : List HostMove), s.pending = .reset :: rest → ∃ t, step s = .next t ∧ t.regs.resetValues) ∧
  (∀ s : State, ∃ t, exec .cmdSrst s = .next t ∧ t.regs.resetValues)

/-! ### Register writes -/

/-- 40 R100: `wpix n, v`. -/
def Obligations.WpixLoadsThePixel : Prop :=
  ∀ (n : Fin 16) (v : Word) (s : State),
    decode (0x8000000000000000#64 ||| (BitVec.ofNat 64 (4 * n.val) <<< 32) ||| v.setWidth 64) = .ok (.wpix n v) ∧
    ∃ t, exec (.wpix n v) s = .next t ∧
      (∀ m : Fin 16, t.regs.pix.get m = if m = n then v else s.regs.pix.get m) ∧
      (∀ m : Fin 16, t.regs.pixv.getLsbD m.val = (s.regs.pixv.getLsbD m.val || decide (m = n))) ∧
      { t.regs with pix := s.regs.pix, pixv := s.regs.pixv } = s.regs ∧ sameHost s t

/-- 40 R101, R102, R103: `wqual v`, `wimgw v`, `wimgh v`. -/
def Obligations.ConfigurationWritesSetTheirRegister : Prop :=
  ∀ (v : Word) (s : State),
    (decode (0x8000004000000000#64 ||| v.setWidth 64) = .ok (.wqual v) ∧
      exec (.wqual v) s = .next { s with regs := { s.regs with quality := BitVec.ofNat 8 v.toNat } }) ∧
    (decode (0x8000004400000000#64 ||| v.setWidth 64) = .ok (.wimgw v) ∧
      exec (.wimgw v) s = .next { s with regs := { s.regs with imgW := v } }) ∧
    (decode (0x8000004800000000#64 ||| v.setWidth 64) = .ok (.wimgh v) ∧
      exec (.wimgh v) s = .next { s with regs := { s.regs with imgH := v } })

/-! ### Commands -/

/-- 40 R104: `cmd.nop` does nothing, whatever `ERR` holds. -/
def Obligations.NopChangesNothing : Prop :=
  decode 0x8000004C00000000#64 = .ok .cmdNop ∧ ∀ s : State, exec .cmdNop s = .next s

/-- 40 R106: `cmd.enc`, its two fault paths and its success path. -/
def Obligations.EncRunsAsItsRuleSays : Prop :=
  decode 0x8000004C00000001#64 = .ok .cmdEnc ∧
  (∀ s : State, s.regs.err ≠ 0#5 →
    exec .cmdEnc s = .next { s with regs := { s.regs with err := s.regs.err ||| 0b10000#5, rv := false } }) ∧
  (∀ s : State, s.regs.err = 0#5 → s.regs.pixv ≠ 0xFFFF#16 →
    exec .cmdEnc s = .next { s with regs := { s.regs with err := 0b00010#5, rv := false } }) ∧
  (∀ (w : Vector Word 16) (n : Fin 16), (blockOf w).get n =
    ⟨(w.get n).extractLsb' 0 8, (w.get n).extractLsb' 8 8, (w.get n).extractLsb' 16 8, (w.get n).extractLsb' 24 8⟩) ∧
  (∀ s : State, s.regs.err = 0#5 → s.regs.pixv = 0xFFFF#16 →
    (encodeBlock (blockOf s.regs.pix) s.regs.quality).sc < 2 ^ 23 ∧
    (encodeBlock (blockOf s.regs.pix) s.regs.quality).win ≤ 240 ∧
    exec .cmdEnc s = .next { s with regs := { s.regs with
      out := (encodeBlock (blockOf s.regs.pix) s.regs.quality).blk
      score := BitVec.ofNat 32 (encodeBlock (blockOf s.regs.pix) s.regs.quality).sc
      winner := BitVec.ofNat 8 (encodeBlock (blockOf s.regs.pix) s.regs.quality).win
      rv := true
      dist := BitVec.ofNat 64 (s.regs.dist.toNat + (encodeBlock (blockOf s.regs.pix) s.regs.quality).sc)
      blkCnt := BitVec.ofNat 32 (s.regs.blkCnt.toNat + 1) } })

/-- 40 R107: `cmd.frame`, its two fault paths and its success path. -/
def Obligations.FrameRunsAsItsRuleSays : Prop :=
  decode 0x8000004C00000002#64 = .ok .cmdFrame ∧
  (∀ s : State, s.regs.err ≠ 0#5 →
    exec .cmdFrame s = .next { s with regs := { s.regs with err := s.regs.err ||| 0b10000#5 } }) ∧
  (∀ s : State, s.regs.err = 0#5 → (s.regs.imgW.toNat % 4 ≠ 0 ∨ s.regs.imgH.toNat % 4 ≠ 0) →
    exec .cmdFrame s = .next { s with regs := { s.regs with err := 0b00001#5 } }) ∧
  (∀ s : State, s.frameReady →
    exec .cmdFrame s = .next { s with regs := { s.regs with dist := 0#64, blkCnt := 0#32 } })

/-- 40 R108, R109: `cmd.clrerr` clears `ERR` alone, `cmd.clrpix` clears `PIXV` alone, whatever `ERR` holds. -/
def Obligations.ClearCommandsClearTheirRegister : Prop :=
  (decode 0x8000004C00000003#64 = .ok .cmdClrerr ∧
    ∀ s : State, exec .cmdClrerr s = .next { s with regs := { s.regs with err := 0#5 } }) ∧
  (decode 0x8000004C00000004#64 = .ok .cmdClrpix ∧
    ∀ s : State, exec .cmdClrpix s = .next { s with regs := { s.regs with pixv := 0#16 } })

/-- 40 R110: `cmd.srst` gives the reset state from any state; `PIX`, `OUT`, `SCORE`, `WINNER` hold no value after it, so reading one
of them is a draw. -/
def Obligations.SrstGivesTheResetState : Prop :=
  decode 0x8000004C00000005#64 = .ok .cmdSrst ∧
  ∀ s : State, ∃ t, exec .cmdSrst s = .next t ∧ t.regs.resetValues ∧
    t.pending = s.pending ∧ t.reads = s.reads ∧ t.draws = s.draws ∧
    (∀ n : Fin 16, ∃ u, exec (.rpix n) t = .next u ∧ u.draws = t.draws + 1) ∧
    (∀ i ∈ [Instr.routlo, .routhi, .rscore, .rwinner], ∃ u, exec i t = .next u ∧ u.draws = t.draws + 1)

/-! ### Reads -/

/-- 40 R112: `rpix n` returns the pixel when it is loaded, and an unspecified value, with no fault, when it is not. -/
def Obligations.RpixReturnsThePixelOrADraw : Prop :=
  ∀ (n : Fin 16) (s : State),
    decode (BitVec.ofNat 64 (4 * n.val) <<< 32) = .ok (.rpix n) ∧
    (s.regs.pixv.getLsbD n.val = true → exec (.rpix n) s = .next { s with reads := s.reads ++ [s.regs.pix.get n] }) ∧
    (s.regs.pixv.getLsbD n.val = false →
      ∃ v, exec (.rpix n) s = .next { s with reads := s.reads ++ [v], draws := s.draws + 1 })

/-- 40 R113 to R118: the configuration and status reads return their register and change nothing. -/
def Obligations.ConfigAndStatusReadsReturnTheirRegister : Prop :=
  ∀ s : State,
    (decode 0x0000004000000000#64 = .ok .rqual ∧
      exec .rqual s = .next { s with reads := s.reads ++ [BitVec.ofNat 32 s.regs.quality.toNat] }) ∧
    (decode 0x0000004400000000#64 = .ok .rimgw ∧ exec .rimgw s = .next { s with reads := s.reads ++ [s.regs.imgW] }) ∧
    (decode 0x0000004800000000#64 = .ok .rimgh ∧ exec .rimgh s = .next { s with reads := s.reads ++ [s.regs.imgH] }) ∧
    (decode 0x0000005000000000#64 = .ok .rstatus ∧
      exec .rstatus s = .next { s with reads := s.reads ++ [BitVec.ofNat 32
        ((if s.regs.rv then 1 else 0) + (if s.regs.pixv = 0xFFFF#16 then 2 else 0) + (if s.regs.err = 0#5 then 0 else 4))] }) ∧
    (decode 0x0000005400000000#64 = .ok .rerr ∧
      exec .rerr s = .next { s with reads := s.reads ++ [BitVec.ofNat 32 s.regs.err.toNat] }) ∧
    (decode 0x0000005800000000#64 = .ok .rpixv ∧
      exec .rpixv s = .next { s with reads := s.reads ++ [BitVec.ofNat 32 s.regs.pixv.toNat] })

/-- 40 R119 to R122: the result reads return their register while `RV = 1` and an unspecified value, with no fault, while `RV = 0`. -/
def Obligations.ResultReadsReturnTheirRegisterOrADraw : Prop :=
  (decode 0x0000005C00000000#64 = .ok .routlo ∧ decode 0x0000006000000000#64 = .ok .routhi ∧
    decode 0x0000006400000000#64 = .ok .rscore ∧ decode 0x0000006800000000#64 = .ok .rwinner) ∧
  (∀ s : State, s.regs.rv = true →
    exec .routlo s = .next { s with reads := s.reads ++ [BitVec.ofNat 32 s.regs.out.toNat] } ∧
    exec .routhi s = .next { s with reads := s.reads ++ [BitVec.ofNat 32 (s.regs.out.toNat / 2 ^ 32)] } ∧
    exec .rscore s = .next { s with reads := s.reads ++ [s.regs.score] } ∧
    exec .rwinner s = .next { s with reads := s.reads ++ [BitVec.ofNat 32 s.regs.winner.toNat] }) ∧
  (∀ s : State, s.regs.rv = false → ∀ i ∈ [Instr.routlo, .routhi, .rscore, .rwinner],
    ∃ v, exec i s = .next { s with reads := s.reads ++ [v], draws := s.draws + 1 })

/-- 40 R123, R124, R127: the reads of the totals. -/
def Obligations.TotalReadsReturnTheirRegister : Prop :=
  (decode 0x0000006C00000000#64 = .ok .rblkcnt ∧ decode 0x0000007000000000#64 = .ok .rdistlo ∧
    decode 0x0000007400000000#64 = .ok .rdisthi) ∧
  (∀ s : State,
    exec .rblkcnt s = .next { s with reads := s.reads ++ [s.regs.blkCnt] } ∧
    exec .rdistlo s = .next { s with reads := s.reads ++ [BitVec.ofNat 32 s.regs.dist.toNat] } ∧
    exec .rdisthi s = .next { s with reads := s.reads ++ [BitVec.ofNat 32 (s.regs.dist.toNat / 2 ^ 32)] })

/-! ### Malformed accesses -/

/-- 40 R111, R125, R126: which accesses decode to the catch-all rows, and that each raises its fault and does nothing else; a bad read
returns 0. -/
def Obligations.MalformedAccessesRaiseTheirFault : Prop :=
  (∀ (d : Word) (s : State), 5 < d.toNat →
    decode (packTW true 0x4C#8 d) = .ok (.illCmd d) ∧
    exec (.illCmd d) s = .next { s with regs := { s.regs with err := s.regs.err ||| 0b00100#5 } }) ∧
  (∀ (a : Addr) (d : Word) (s : State), (a.toNat % 4 ≠ 0 ∨ 0x78 ≤ a.toNat ∨ (0x50 ≤ a.toNat ∧ a.toNat ≤ 0x74)) →
    decode (packTW true a d) = .ok (.badW a d) ∧
    exec (.badW a d) s = .next { s with regs := { s.regs with err := s.regs.err ||| 0b01000#5 } }) ∧
  (∀ (a : Addr) (s : State), (a.toNat % 4 ≠ 0 ∨ 0x78 ≤ a.toNat ∨ a.toNat = 0x4C) →
    decode (packTW false a 0#32) = .ok (.badR a) ∧
    exec (.badR a) s =
      .next { s with regs := { s.regs with err := s.regs.err ||| 0b01000#5 }, reads := s.reads ++ [0#32] })

/-! ### Rules of the whole machine -/

/-- 60 R236, R239: every transaction completes with a next state, whatever the state, and leaves the host's other moves alone. -/
def Obligations.EveryTransactionCompletes : Prop :=
  ∀ (i : Instr) (s : State), ∃ t, exec i s = .next t ∧ t.pending = s.pending

/-- 20_memory R59 (1), 40 R112: a read returns the value of the latest earlier write. -/
def Obligations.LoadedPixelReadsBack : Prop :=
  ∀ (n m : Fin 16) (v w : Word) (s : State), m ≠ n →
    ∃ t, runOps [.wpix n v, .wpix m w, .rpix n] s = .next t ∧ t.reads = s.reads ++ [v] ∧ t.draws = s.draws

/-- 10_state R21: only `wpix` (and a reset, after which `PIX` holds no value) changes a pixel register. -/
def Obligations.OnlyWpixAndResetChangePixels : Prop :=
  ∀ (i : Instr) (s t : State), exec i s = .next t → (∀ n v, i ≠ .wpix n v) → i ≠ .cmdSrst → t.regs.pix = s.regs.pix

/-- 10_state R30: a fault bit stays set until `cmd.clrerr`, `cmd.srst` or reset. -/
def Obligations.FaultBitsAreSticky : Prop :=
  ∀ (i : Instr) (s t : State) (k : Nat), exec i s = .next t → clearsFaults i = false →
    s.regs.err.getLsbD k = true → t.regs.err.getLsbD k = true

/-- 20_memory R56: no read has a side effect on a register, except that a bad read sets `ERR.ACCESS`; every read returns one value
and no write returns any. -/
def Obligations.ReadsChangeNoRegister : Prop :=
  (∀ (i : Instr) (s t : State), i.isWrite = false → exec i s = .next t →
    (∃ v, t.reads = s.reads ++ [v]) ∧ { t.regs with err := s.regs.err } = s.regs ∧
    ((∀ a, i ≠ .badR a) → t.regs = s.regs) ∧
    ((∃ a, i = .badR a) → t.regs.err = s.regs.err ||| 0b01000#5)) ∧
  (∀ (i : Instr) (s t : State), i.isWrite = true → exec i s = .next t → t.reads = s.reads ∧ t.draws = s.draws)

/-- 10_state R31, R32: no operation but `cmd.enc` and `cmd.srst` changes `RV` or a result register. -/
def Obligations.OnlyEncAndResetChangeTheResult : Prop :=
  ∀ (i : Instr) (s t : State), exec i s = .next t → i ≠ .cmdEnc → i ≠ .cmdSrst →
    t.regs.rv = s.regs.rv ∧ t.regs.out = s.regs.out ∧ t.regs.score = s.regs.score ∧ t.regs.winner = s.regs.winner

/-- 60 R243, R246: one transaction raises at most one fault, and bits accumulate by OR. -/
def Obligations.OneFaultPerTransaction : Prop :=
  ∀ (i : Instr) (s t : State), exec i s = .next t → clearsFaults i = false →
    t.regs.err = s.regs.err ∨ ∃ k < 5, t.regs.err = s.regs.err ||| BitVec.twoPow 5 k

/-- 60 R246: while `ERR /= 0` no packed block and no addition to the totals is produced, until the host clears it. -/
def Obligations.NothingIsEncodedWhileAFaultIsPending : Prop :=
  ∀ (i : Instr) (s t : State), exec i s = .next t → clearsFaults i = false → s.regs.err ≠ 0#5 →
    t.regs.err ≠ 0#5 ∧ t.regs.out = s.regs.out ∧ t.regs.score = s.regs.score ∧ t.regs.winner = s.regs.winner ∧
    t.regs.dist = s.regs.dist ∧ t.regs.blkCnt = s.regs.blkCnt ∧ (t.regs.rv = true → s.regs.rv = true)

/-- 10_state R38, 45 R201: what `cmd.enc` writes is a function of `PIX` and `QUALITY` alone. -/
def Obligations.EncDependsOnPixelsAndQualityAlone : Prop :=
  ∀ s s' : State, s.encReady → s'.encReady → s.regs.pix = s'.regs.pix → s.regs.quality = s'.regs.quality →
    ∃ t t', exec .cmdEnc s = .next t ∧ exec .cmdEnc s' = .next t' ∧
      t.regs.out = t'.regs.out ∧ t.regs.score = t'.regs.score ∧ t.regs.winner = t'.regs.winner ∧
      t.regs.dist - s.regs.dist = t'.regs.dist - s'.regs.dist

/-- 10_state R38, R39: the bits of a register that holds no value never reach the host: from two states that differ in such bits only,
a step answers alike, and the states stay so. One clause is the model's choice and no rule of the spec (log entry 3, DESIGN CHOICE):
that two steps which draw return the SAME word, since a draw is `Config.freeRead` of the counter `draws`, equal in the two states;
00_scope R11 and R38 let a model assume nothing of a draw. Likewise the equal free contents after a reset (log entry 5). -/
def Obligations.ContentsWithNoValueNeverMatter : Prop :=
  ∀ s s' : State, s.sameVisible s' →
    (∃ t t', step s = .next t ∧ step s' = .next t' ∧ t.sameVisible t') ∨
    (∃ r, step s = .refused r ∧ step s' = .refused r)

/-! ### Invariants -/

/-- The invariants below hold in the state the machine starts from. -/
def Obligations.InvariantsHoldAtReset : Prop := State.reset.resultInv ∧ State.reset.totalsInv

/-- 10_state R31 to R34: while `RV = 1` the result registers are the result of an encode; every step keeps this. -/
def Obligations.EveryStepKeepsTheResultMeaningful : Prop :=
  ∀ s t : State, s.resultInv → step s = .next t → t.resultInv

/-- 10_state R36: while `BLK_CNT` does not wrap, `DIST` is at most `BLK_CNT` largest scores and so below 2^55. -/
def Obligations.EveryStepKeepsTheTotalsBounded : Prop :=
  (∀ s t : State, s.totalsInv → s.regs.blkCnt ≠ 0xFFFFFFFF#32 → step s = .next t → t.totalsInv) ∧
  (∀ s : State, s.totalsInv → s.regs.dist.toNat < 2 ^ 55)

/-! ### candidate_color_quantizer -/

/-- 41 R131, R132, R133: quantizing rounds each channel down, is idempotent, and its error is bounded. -/
def Obligations.QuantizeRoundsDown : Prop :=
  ∀ c : Color,
    (quantize c).r.toNat = 8 * (c.r.toNat / 8) ∧ (quantize c).g.toNat = 4 * (c.g.toNat / 4) ∧
    (quantize c).b.toNat = 8 * (c.b.toNat / 8) ∧ (quantize c).a.toNat = 128 * (c.a.toNat / 128) ∧
    wordOfColor (quantize c) = wordOfColor c &&& 0x80F8FCF8#32 ∧
    isQuantized (quantize c) = true ∧ quantize (quantize c) = quantize c ∧
    (c.r.toNat - (quantize c).r.toNat ≤ 7 ∧ c.g.toNat - (quantize c).g.toNat ≤ 3 ∧ c.b.toNat - (quantize c).b.toNat ≤ 7)

/-- 30_encoding R80, R82: the colour word keeps every channel; `enc565` as a number, unchanged by quantizing. -/
def Obligations.ColourWordAndEndpointEncoding : Prop :=
  (∀ w : Word, wordOfColor (colorOfWord w) = w) ∧
  (∀ c : Color, colorOfWord (wordOfColor c) = c ∧
    (wordOfColor c).toNat = c.r.toNat + 2 ^ 8 * c.g.toNat + 2 ^ 16 * c.b.toNat + 2 ^ 24 * c.a.toNat) ∧
  (∀ c : Color, (enc565 c).toNat = 2048 * (c.r.toNat / 8) + 32 * (c.g.toNat / 4) + c.b.toNat / 8 ∧
    enc565 (quantize c) = enc565 c)

/-- 41 R134, R135: sorted by the endpoint encoding, both quantized, independent in R, G, B of the order of the arguments. -/
def Obligations.SortedPairsAreCanonical : Prop :=
  ∀ a b : Color,
    ((enc565 a).toNat ≤ (enc565 b).toNat → sortAndQuantize a b = ⟨quantize a, quantize b⟩) ∧
    ((enc565 b).toNat < (enc565 a).toNat → sortAndQuantize a b = ⟨quantize b, quantize a⟩) ∧
    isQuantized (sortAndQuantize a b).low = true ∧ isQuantized (sortAndQuantize a b).high = true ∧
    (enc565 (sortAndQuantize a b).low).toNat ≤ (enc565 (sortAndQuantize a b).high).toNat ∧
    sameRgb (sortAndQuantize a b).low (sortAndQuantize b a).low = true ∧
    sameRgb (sortAndQuantize a b).high (sortAndQuantize b a).high = true

/-- 41 R138, R139: each channel of the pushed colour is `floor((7a - 3b)/4)` clamped, alpha passes through, and the laws E2 to E4. -/
def Obligations.ExtrapolatePushesApart : Prop :=
  (∀ a b : Chan,
    (7 * a.toNat ≤ 3 * b.toNat → (extrapolateChan a b).toNat = 0) ∧
    (3 * b.toNat ≤ 7 * a.toNat → 7 * a.toNat - 3 * b.toNat < 1020 →
      (extrapolateChan a b).toNat = (7 * a.toNat - 3 * b.toNat) / 4) ∧
    (1020 ≤ 7 * a.toNat - 3 * b.toNat → (extrapolateChan a b).toNat = 255) ∧
    (a.toNat ≤ b.toNat → (extrapolateChan a b).toNat ≤ a.toNat ∧ b.toNat ≤ (extrapolateChan b a).toNat)) ∧
  (∀ a b : Color,
    (extrapolate a b).1 = ⟨extrapolateChan a.r b.r, extrapolateChan a.g b.g, extrapolateChan a.b b.b, a.a⟩ ∧
    (extrapolate a b).2 = ⟨extrapolateChan b.r a.r, extrapolateChan b.g a.g, extrapolateChan b.b a.b, b.a⟩ ∧
    extrapolate b a = ((extrapolate a b).2, (extrapolate a b).1) ∧
    (sameRgb a b = true → extrapolate a b = (a, b)))

/-- 41 R140, R141: `mn` and `mx` are the least and the greatest value of each channel over all sixteen pixels, and a block is flat
exactly when all its pixels have the same R, G and B. -/
def Obligations.ExtremesAndFlatness : Prop :=
  ∀ P : Block,
    (∀ ch ∈ [Color.r, Color.g, Color.b, Color.a],
      (∀ n : Fin 16, ch (blockMin P) ≤ ch (P.get n) ∧ ch (P.get n) ≤ ch (blockMax P)) ∧
      (∃ n : Fin 16, ch (P.get n) = ch (blockMin P)) ∧ (∃ n : Fin 16, ch (P.get n) = ch (blockMax P))) ∧
    (flat P = true ↔ ∀ n m : Fin 16, sameRgb (P.get n) (P.get m) = true)

/-- 41 R144: the pair `(i, j)` stands at position `pidx(i, j)` of the loop order, and there are 120 pairs. -/
def Obligations.PairsStandInLoopOrder : Prop :=
  ∀ l : List Color, l.length = 16 →
    (pairsOf l).length = 120 ∧
    ∀ i j : Nat, i < j → j < 16 → ∃ a b, l[i]? = some a ∧ l[j]? = some b ∧ (pairsOf l)[pidx i j]? = some (a, b)

/-- 41 R142, R143: the candidates and their numbers at every quality. -/
def Obligations.CandidatesAreNumbered : Prop :=
  ∀ (P : Block) (q : BitVec 8),
    (buildEndpoints P q)[0]? = some ⟨quantize (blockMin P), quantize (blockMax P)⟩ ∧
    ((q.toNat = 0 ∨ flat P = true) → (buildEndpoints P q).length = 1) ∧
    (q.toNat = 1 → flat P = false → (buildEndpoints P q).length = 121) ∧
    (2 ≤ q.toNat → flat P = false → (buildEndpoints P q).length = 241) ∧
    (∀ i j : Fin 16, i < j → flat P = false →
      (1 ≤ q.toNat → (buildEndpoints P q)[1 + pidx i.val j.val]? = some (sortAndQuantize (P.get i) (P.get j))) ∧
      (2 ≤ q.toNat → (buildEndpoints P q)[121 + pidx i.val j.val]? =
        some (sortAndQuantize (extrapolate (P.get i) (P.get j)).1 (extrapolate (P.get i) (P.get j)).2)))

/-- 41 R146: every candidate is quantized, ordered by its encodings, and within the quantized range. -/
def Obligations.EveryCandidateIsQuantizedAndOrdered : Prop :=
  ∀ (P : Block) (q : BitVec 8), ∀ c ∈ buildEndpoints P q,
    isQuantized c.low = true ∧ isQuantized c.high = true ∧ (enc565 c.low).toNat ≤ (enc565 c.high).toNat ∧
    c.low.r.toNat ≤ 248 ∧ c.low.g.toNat ≤ 252 ∧ c.low.b.toNat ≤ 248 ∧ c.low.a.toNat ≤ 252 ∧
    c.high.r.toNat ≤ 248 ∧ c.high.g.toNat ≤ 252 ∧ c.high.b.toNat ≤ 248 ∧ c.high.a.toNat ≤ 252

/-- 41 R145: a machine that omits the flat test gives the same results, and so does one whose test skips the pairs of some flat
blocks only (as a test that reads alpha would). -/
def Obligations.FlatTestCannotBeObserved : Prop :=
  ∀ (P : Block) (q : BitVec 8),
    encodeFrom (buildEndpointsAlways P q) P = encodeBlock P q ∧
    ∀ test : Bool, (test = true → flat P = true) →
      encodeFrom (baseline P :: (if test then [] else enabledPairs P (qEff q))) P = encodeBlock P q

/-- 41 R147: `OUT`, `SCORE` and `WINNER` are the same for two blocks that differ only in alpha. -/
def Obligations.AlphaNeverMatters : Prop :=
  ∀ (P P' : Block) (q : BitVec 8), (∀ n : Fin 16, sameRgb (P.get n) (P'.get n) = true) → encodeBlock P q = encodeBlock P' q

/-! ### interpolation_lut_builder -/

/-- 42 R160, R162: the four entries, channel by channel, and their range. -/
def Obligations.TableEntriesAreTheBlends : Prop :=
  ∀ low high : Color,
    (buildTable low high).get 0 = high ∧ (buildTable low high).get 1 = low ∧
    (∀ ch ∈ [Color.r, Color.g, Color.b, Color.a],
      (ch ((buildTable low high).get 2)).toNat = ((ch low).toNat + 2 * (ch high).toNat) / 3 ∧
      (ch ((buildTable low high).get 3)).toNat = (2 * (ch low).toNat + (ch high).toNat) / 3 ∧
      ∀ k : Fin 4, min (ch low).toNat (ch high).toNat ≤ (ch ((buildTable low high).get k)).toNat ∧
        (ch ((buildTable low high).get k)).toNat ≤ max (ch low).toNat (ch high).toNat)

/-! ### block_distortion_evaluator -/

/-- 43 R170: the distance is the sum of the squared signed differences of R, G, B; bounded, symmetric, 0 exactly on equal R, G, B. -/
def Obligations.DistanceIsTheSquaredDifference : Prop :=
  ∀ a b : Color,
    ((distance a b : Nat) : Int) = ((a.r.toNat : Int) - b.r.toNat) ^ 2 + ((a.g.toNat : Int) - b.g.toNat) ^ 2 +
      ((a.b.toNat : Int) - b.b.toNat) ^ 2 ∧
    distance a b ≤ 195075 ∧ distance a b = distance b a ∧ (distance a b = 0 ↔ sameRgb a b = true)

/-- 43 R171, 44 R186: the least distance and the lowest index that attains it; the comparison tree gives the same. -/
def Obligations.NearestIsTheLowestMinimum : Prop :=
  ∀ (T : Table) (c : Color),
    (∀ k : Fin 4, (nearest T c).1 ≤ distance c (T.get k)) ∧
    (nearest T c).1 = distance c (T.get (nearest T c).2.toFin) ∧
    (∀ k : Fin 4, k.val < (nearest T c).2.toNat → (nearest T c).1 < distance c (T.get k)) ∧
    indexOf T c = (nearest T c).2 ∧ nearestTree T c = nearest T c

/-- 43 R174, R176, R177: the score, its bound, that the bound is attained, and that the order of the pixels does not matter. -/
def Obligations.ScoreIsBoundedAndOrderFree : Prop :=
  (∀ (T : Table) (P : Block), (∃ m ∈ P.toList.map (fun c => (nearest T c).1),
      (∀ d ∈ P.toList.map (fun c => (nearest T c).1), d ≤ m) ∧
      score T P = (P.toList.map fun c => (nearest T c).1).sum + 16 * m) ∧
    score T P ≤ 6242400) ∧
  score (Vector.replicate 4 ⟨0, 0, 0, 0⟩) (Vector.replicate 16 ⟨255, 255, 255, 255⟩) = 6242400 ∧
  (∀ (T : Table) (P P' : Block), P.toList.Perm P'.toList → score T P = score T P')

/-! ### color_index_mapper -/

/-- 44 R187, 30_encoding R85: bits `2p+1:2p` of the stream are the index of pixel `p`. -/
def Obligations.IndexStreamHoldsEachPixelsIndex : Prop :=
  ∀ (T : Table) (P : Block) (p : Fin 16), (encodeIndices T P).extractLsb' (2 * p.val) 2 = indexOf T (P.get p)

/-! ### endpoint_selector_reduction -/

/-- 45 R196: the least number among the candidates of minimum score. -/
def Obligations.SelectIsTheFirstMinimum : Prop :=
  ∀ S : List Nat, S ≠ [] → ∃ m, S[select S]? = some m ∧ (∀ s ∈ S, m ≤ s) ∧
    ∀ (k s : Nat), k < select S → S[k]? = some s → m < s

/-- 45 R197: every reduction tree over the keys, of any shape and with the slots that are not enabled fed the sentinel, answers the
selected score and candidate number. -/
def Obligations.EveryReductionTreeSelectsTheSame : Prop :=
  ∀ (S : List Nat) (size : Nat) (t : KeyTree), S ≠ [] → (∀ s ∈ S, s < 2 ^ 23) → S.length ≤ size →
    t.keys.Perm (paddedKeys S size) → some t.reduce.1 = S[select S]? ∧ t.reduce.2 = select S

/-- 45 R198, 30_encoding R83: the packed value as a number, and the order of the two endpoints in every encoded block. -/
def Obligations.PackedBlockFields : Prop :=
  (∀ (stream : Word) (low high : Color),
    (pack stream low high).toNat = stream.toNat * 2 ^ 32 + (enc565 low).toNat * 2 ^ 16 + (enc565 high).toNat) ∧
  (∀ (P : Block) (q : BitVec 8),
    (encodeBlock P q).blk.toNat / 2 ^ 16 % 2 ^ 16 ≤ (encodeBlock P q).blk.toNat % 2 ^ 16)

/-- 30_encoding R84, 46 R218: the eight bytes of a block, which are those of `OUT_LO` then those of `OUT_HI`. -/
def Obligations.BlockBytesAreLittleEndian : Prop :=
  (∀ (stream : Word) (low high : Color),
    bytesOfBlock (pack stream low high) =
      [(enc565 high).extractLsb' 0 8, (enc565 high).extractLsb' 8 8, (enc565 low).extractLsb' 0 8, (enc565 low).extractLsb' 8 8,
       stream.extractLsb' 0 8, stream.extractLsb' 8 8, stream.extractLsb' 16 8, stream.extractLsb' 24 8]) ∧
  (∀ blk : BitVec 64, bytesOfBlock blk = bytesOfWord (lowHalf blk) ++ bytesOfWord (highHalf blk))

/-- 45 R200, 10_state R33, R34: the winner is a candidate, the score is its table's, the block its indices and endpoints; no candidate
scores less, and none before it as little. -/
def Obligations.EncodeBlockReturnsTheBestCandidate : Prop :=
  ∀ (P : Block) (q : BitVec 8), ∃ c, (buildEndpoints P q)[(encodeBlock P q).win]? = some c ∧
    (encodeBlock P q).sc = score (buildTable c.low c.high) P ∧
    (encodeBlock P q).blk = pack (encodeIndices (buildTable c.low c.high) P) c.low c.high ∧
    (encodeBlock P q).win ≤ 240 ∧ (encodeBlock P q).sc < 2 ^ 23 ∧
    ∀ (k : Nat) (d : EndpointPair), (buildEndpoints P q)[k]? = some d →
      (encodeBlock P q).sc ≤ score (buildTable d.low d.high) P ∧
      (k < (encodeBlock P q).win → (encodeBlock P q).sc < score (buildTable d.low d.high) P)

/-- 43 R175, 45 R200, 46 R224: a flat block encodes to its colour twice and no index, at every quality. -/
def Obligations.FlatBlockEncodesItsColour : Prop :=
  ∀ (P : Block) (c : Color) (q : BitVec 8), (∀ n : Fin 16, sameRgb (P.get n) c = true) →
    encodeBlock P q = ⟨0#32 ++ enc565 c ++ enc565 c, 32 * distance c (quantize c), 0⟩

/-- 43 R178, 45 R202: never worse than the baseline, and never worse at a higher quality; the winner changes only for a strictly
smaller score. -/
def Obligations.HigherQualityNeverScoresWorse : Prop :=
  ∀ (P : Block) (q q' : BitVec 8),
    (encodeBlock P q).sc ≤ score (buildTable (quantize (blockMin P)) (quantize (blockMax P))) P ∧
    (q.toNat ≤ q'.toNat → buildEndpoints P q <+: buildEndpoints P q' ∧ (encodeBlock P q').sc ≤ (encodeBlock P q).sc ∧
      ((encodeBlock P q').win = (encodeBlock P q).win ∨ (encodeBlock P q').sc < (encodeBlock P q).sc))

/-! ### The image encoder contract -/

/-- 30_encoding R78, 40 R106: the pseudo-operation `encblk`, from any state with no fault pending, returns the two words of the
encoded block and its score. -/
def Obligations.EncblkReturnsTheEncodedBlock : Prop :=
  ∀ (q : Word) (ws : Vector Word 16) (s : State), s.regs.err = 0#5 →
    ∃ t, runOps (encblk q ws) s = .next t ∧
      t.reads = s.reads ++ [lowHalf (encodeBlock (blockOf ws) (BitVec.ofNat 8 q.toNat)).blk,
        highHalf (encodeBlock (blockOf ws) (BitVec.ofNat 8 q.toNat)).blk,
        BitVec.ofNat 32 (encodeBlock (blockOf ws) (BitVec.ofNat 8 q.toNat)).sc] ∧
      t.regs.pix = ws ∧ t.regs.err = 0#5 ∧ t.draws = s.draws

/-- 46 R216, R218, R219: the blocks of an image, their pixels, the place of each block's bytes in the stream, and its length. -/
def Obligations.StreamHoldsEveryBlockInOrder : Prop :=
  ∀ (img : Image) (quality : BitVec 8),
    (streamOf img quality).length = (img.width / 4) * (img.height / 4) * 8 ∧
    ∀ bx br : Nat, bx < img.width / 4 → br < img.height / 4 →
      (blocksOf img)[br * (img.width / 4) + bx]? = some (blockAt img bx br) ∧
      ((streamOf img quality).drop (8 * (br * (img.width / 4) + bx))).take 8 =
        bytesOfBlock (encodeBlock (blockAt img bx br) quality).blk ∧
      ∀ x y : Fin 4, (blockAt img bx br)[4 * y.val + x.val]? = some (img.pixel (4 * bx + x.val) (4 * br + y.val))

/-- 46 R217 to R221: from every state, the host's sequence for an image ends with the bytes `encode(image, quality)` returns, the
total distortion in `DIST` and the number of blocks in `BLK_CNT` (each modulo its width), no fault and no draw; for an image whose
dimensions are not multiples of 4 it ends with InvalidDimensions and no byte. The sequence is the model's host: it clears faults with
`cmd.clrerr`, reads `rerr` once at the end and discards the stream where that is not 0 (log entry 16), and a run has gone wrong by any
draw (log entry 21). -/
def Obligations.HostSequenceEncodesTheImage : Prop :=
  ∀ (img : Image) (quality : BitVec 8) (s : State),
    (dimensionsValid img = true → ∃ t, hostEncode img quality s = .next (t, encodeImage img quality) ∧ ¬ runGoneWrong s t ∧
      encodeImage img quality = .stream (streamOf img quality) ∧
      t.regs.dist = BitVec.ofNat 64 (totalDistortion img quality) ∧ t.regs.blkCnt = BitVec.ofNat 32 (blocksOf img).length) ∧
    (dimensionsValid img = false → ∃ t, hostEncode img quality s = .next (t, encodeImage img quality) ∧
      encodeImage img quality = .invalidDimensions ∧ t.regs.err = 0b00001#5)
end

