-- ==== Sys2Proof/Laws/Datapath.lean ====
section
/-! SUPPORT. Small lemmas of the datapath functions: what depends on R, G, B alone, the shape of the lists, the pairs. -/

namespace Sys2Proof.Machine

/-- Two Colors agree in R, G and B (00_scope R10). -/
theorem sameRgb_iff {c d : Color} : sameRgb c d = true ↔ c.r = d.r ∧ c.g = d.g ∧ c.b = d.b := by
  simp [sameRgb, and_assoc]

/-- Quantizing respects equal R, G, B (41 R131). -/
theorem quantize_sameRgb {c d : Color} (h : sameRgb c d = true) : sameRgb (quantize c) (quantize d) = true := by
  rw [sameRgb_iff] at *
  simp [quantize, h.1, h.2.1, h.2.2]

/-- The endpoint encoding drops alpha (30_encoding R82). -/
theorem enc565_congr {c d : Color} (h : sameRgb c d = true) : enc565 c = enc565 d := by
  rw [sameRgb_iff] at h
  simp [enc565, h.1, h.2.1, h.2.2]

/-- Extrapolating respects equal R, G, B (41 R138). -/
theorem pushAway_sameRgb {a a' b b' : Color} (ha : sameRgb a a' = true) (hb : sameRgb b b' = true) :
    sameRgb (pushAway a b) (pushAway a' b') = true := by
  rw [sameRgb_iff] at *
  simp [pushAway, ha.1, ha.2.1, ha.2.2, hb.1, hb.2.1, hb.2.2]

/-- Blending respects equal R, G, B (42 R160). -/
theorem blendColor_sameRgb (w : Nat × Nat) {l l' h h' : Color} (hl : sameRgb l l' = true) (hh : sameRgb h h' = true) :
    sameRgb (blendColor w l h) (blendColor w l' h') = true := by
  rw [sameRgb_iff] at *
  simp [blendColor, hl.1, hl.2.1, hl.2.2, hh.1, hh.2.1, hh.2.2]

/-- The distance ignores alpha (43 R170). -/
theorem distance_congr {a a' b b' : Color} (ha : sameRgb a a' = true) (hb : sameRgb b b' = true) : distance a b = distance a' b' := by
  rw [sameRgb_iff] at *
  simp [distance, ha.1, ha.2.1, ha.2.2, hb.1, hb.2.1, hb.2.2]

/-- The Block of the pixel registers, pixel by pixel (40 R106). -/
theorem blockOf_get (w : Vector Word 16) (n : Fin 16) : (blockOf w).get n = colorOfWord (w.get n) := by
  simp [blockOf, Vector.get]
  rfl

/-- The candidate list starts with the baseline (41 R143). -/
theorem buildEndpoints_head (P : Block) (q : BitVec 8) : (buildEndpoints P q).head? = some (baseline P) := rfl

/-- One score for each candidate (45 R200). -/
@[simp] theorem scoresOf_length (cand : List EndpointPair) (P : Block) : (scoresOf cand P).length = cand.length := by
  simp [scoresOf]

/-- One minimum for each pixel (43 R174). -/
@[simp] theorem minima_length (T : Table) (P : Block) : (minima T P).length = 16 := by simp [minima]

@[simp] theorem pairsOf_nil {α : Type} : pairsOf ([] : List α) = [] := rfl

@[simp] theorem pairsOf_cons {α : Type} (x : α) (rest : List α) :
    pairsOf (x :: rest) = rest.map (fun y => (x, y)) ++ pairsOf rest := rfl

/-- Both members of a pair are members of the list. -/
theorem mem_of_mem_pairsOf {α : Type} {l : List α} {a b : α} (h : (a, b) ∈ pairsOf l) : a ∈ l ∧ b ∈ l := by
  induction l with
  | nil => cases h
  | cons x rest ih =>
    rw [pairsOf_cons, List.mem_append, List.mem_map] at h
    rcases h with ⟨y, hy, he⟩ | h
    · cases he
      exact ⟨List.mem_cons_self, List.mem_cons_of_mem _ hy⟩
    · exact ⟨List.mem_cons_of_mem _ (ih h).1, List.mem_cons_of_mem _ (ih h).2⟩

/-- The pairs of a mapped list are the mapped pairs. -/
theorem pairsOf_map {α β : Type} (f : α → β) (l : List α) :
    pairsOf (l.map f) = (pairsOf l).map fun p => (f p.1, f p.2) := by
  induction l with
  | nil => rfl
  | cons x rest ih => simp [ih, Function.comp_def]

/-- `extrapolate` is built on 1.5 times half the difference (41 R136): 7a - 3b = 4a - 2 * 1.5 * (b - a). -/
theorem extrapolate_factor (a b : Int) :
    7 * a - 3 * b = 4 * a - (2 * (Config.extrapF.1 : Int)) / (Config.extrapF.2 : Int) * (b - a) := by
  simp only [Config.extrapF]
  omega

end Sys2Proof.Machine
end

