-- ==== Sys2Proof/Laws/Encoding.lean ====
section
/-! SUPPORT. The fields of a packed transaction word, and the registers found at their own offsets (30_encoding R70, R72). -/

namespace Sys2Proof

@[simp] theorem twWrite_packTW (w : Bool) (a : Addr) (d : Word) : twWrite (packTW w a d) = w := by
  simp only [twWrite, packTW, BitVec.getLsbD_append]
  cases w <;> simp

@[simp] theorem twZero_packTW (w : Bool) (a : Addr) (d : Word) : twZero (packTW w a d) = 0#23 := by
  apply BitVec.eq_of_getLsbD_eq
  intro i hi
  simp only [twZero, packTW, BitVec.getLsbD_extractLsb', BitVec.getLsbD_append]
  simp only [show ¬ 40 + i < 32 by omega, show ¬ 40 + i - 32 < 8 by omega, show 40 + i - 32 - 8 < 23 by omega]
  simp

@[simp] theorem twAddr_packTW (w : Bool) (a : Addr) (d : Word) : twAddr (packTW w a d) = a := by
  apply BitVec.eq_of_getLsbD_eq
  intro i hi
  simp only [twAddr, packTW, BitVec.getLsbD_extractLsb', BitVec.getLsbD_append]
  simp only [show ¬ 32 + i < 32 by omega, show 32 + i - 32 < 8 by omega, hi]
  simp

@[simp] theorem twData_packTW (w : Bool) (a : Addr) (d : Word) : twData (packTW w a d) = d := by
  apply BitVec.eq_of_getLsbD_eq
  intro i hi
  simp only [twData, packTW, BitVec.getLsbD_extractLsb', BitVec.getLsbD_append]
  simp [hi]

/-- A word is its own four fields, when the field 62:40 is 0 (30_encoding R70). -/
theorem packTW_fields {tw : TW} (h : twZero tw = 0#23) : packTW (twWrite tw) (twAddr tw) (twData tw) = tw := by
  apply BitVec.eq_of_getLsbD_eq
  intro i hi
  simp only [packTW, BitVec.getLsbD_append, twWrite, twAddr, twData, BitVec.getLsbD_extractLsb']
  by_cases h1 : i < 32
  · simp [h1]
  · by_cases h2 : i - 32 < 8
    · simp [h1, h2, show 32 + (i - 32) = i by omega]
    · by_cases h3 : i - 32 - 8 < 23
      · have hz : (twZero tw).getLsbD (i - 40) = false := by rw [h]; simp
        rw [twZero, BitVec.getLsbD_extractLsb'] at hz
        simp [show i - 40 < 23 by omega, show 40 + (i - 40) = i by omega] at hz
        simp [h1, h2, h3, hz]
      · have : i = 63 := by omega
        subst this
        simp

/-- The packed word as the rules of 40_host_commands write it: `w << 63 | addr << 32 | data`. -/
theorem packTW_or (w : Bool) (a : Addr) (d : Word) :
    packTW w a d = (BitVec.ofBool w).setWidth 64 <<< 63 ||| a.setWidth 64 <<< 32 ||| d.setWidth 64 := by
  apply BitVec.eq_of_getLsbD_eq
  intro i hi
  simp only [packTW, BitVec.getLsbD_append, BitVec.getLsbD_or, BitVec.getLsbD_shiftLeft, BitVec.getLsbD_setWidth]
  by_cases h1 : i < 32
  · simp [h1, hi, show i < 63 by omega]
  · have hd : d.getLsbD i = false := BitVec.getLsbD_of_ge d i (by omega)
    by_cases h2 : i - 32 < 8
    · simp [h1, h2, hd, hi, show i - 32 < 64 by omega, show i < 63 by omega]
    · have ha : a.getLsbD (i - 32) = false := BitVec.getLsbD_of_ge a _ (by omega)
      by_cases h3 : i - 32 - 8 < 23
      · simp [h1, h2, h3, ha, hd, hi, show i < 63 by omega]
      · have : i = 63 := by omega
        subst this
        cases w <;> simp at hd ⊢

/-- A write request is read back from its word (30_encoding R70). -/
theorem request_write (a : Addr) (d : Word) : request (packTW true a d) = .ok ⟨true, a, d⟩ := by
  simp [request]

/-- A read request is read back from its word (30_encoding R70). -/
theorem request_read (a : Addr) : request (packTW false a 0#32) = .ok ⟨false, a, 0#32⟩ := by
  simp [request]

/-- Decoding a write is decoding its address and data (30_encoding R71, R74). -/
theorem decode_write (a : Addr) (d : Word) : decode (packTW true a d) = .ok (decodeWrite a d) := by
  simp [decode, request_write, decodeRequest]

/-- Decoding a read is decoding its address (30_encoding R71, R74). -/
theorem decode_read (a : Addr) : decode (packTW false a 0#32) = .ok (decodeRead a) := by
  simp [decode, request_read, decodeRequest]

/-- Every register stands at its own offset (30_encoding R72). -/
theorem regAt_offset (r : RegName) : regAt r.offset = some r := by
  cases r with
  | pix n => revert n; decide
  | _ => decide

/-- A register found at an address has that offset (30_encoding R72). -/
theorem offset_of_regAt {a : Addr} {r : RegName} (h : regAt a = some r) : r.offset = a := by
  have := List.find?_some h
  simpa using this

/-- No register stands at a misaligned or reserved address (20_memory R53, R57; 40 R105 check 1). -/
theorem regAt_none (a : Addr) : regAt a = none ↔ a.toNat % 4 ≠ 0 ∨ 0x78 ≤ a.toNat := by
  revert a; decide +kernel

end Sys2Proof
end

