-- ==== Sys2Proof/Laws/Host.lean ====
section
/-! SUPPORT. Small lemmas of the host's sequences: performing lists of operations. -/

namespace Sys2Proof.Machine

@[simp] theorem thenDo_next {α β : Type} (a : α) (f : α → Host.Outcome β Fault Refusal) : thenDo (.next a) f = f a := rfl

@[simp] theorem runOps_nil (s : State) : runOps [] s = .next s := rfl

@[simp] theorem runOps_cons (i : Instr) (rest : List Instr) (s : State) : runOps (i :: rest) s = thenDo (exec i s) (runOps rest) := rfl

/-- Performing two lists is performing one after the other. -/
theorem runOps_append (xs ys : List Instr) (s : State) : runOps (xs ++ ys) s = thenDo (runOps xs s) (runOps ys) := by
  induction xs generalizing s with
  | nil => rfl
  | cons i rest ih =>
    rw [List.cons_append, runOps_cons, runOps_cons]
    cases exec i s with
    | next t => exact ih t
    | fault r => rfl
    | refused r => rfl

@[simp] theorem lastRead_reply (s : State) (v : Word) : lastRead (s.reply v) = v := by
  simp [lastRead, State.reply]

/-- `ERR` read as a word is 0 exactly when no fault is pending. -/
theorem zext32_err_eq_zero (e : BitVec 5) : zext32 e = 0#32 ↔ e = 0#5 := by
  constructor
  · intro h
    simpa [zext32] using congrArg (BitVec.setWidth 5) h
  · rintro rfl
    rfl

/-- The end of the host's sequence: one read of `ERR`, and the stream kept exactly when no fault is pending (70 R277). -/
theorem hostFinish_eq (bytes : List Byte) (s : State) :
    hostFinish bytes s =
      .next (s.reply (zext32 s.regs.err), if s.regs.err = 0#5 then .stream bytes else .discarded) := by
  change Host.Outcome.next (s.reply (zext32 s.regs.err),
    if lastRead (s.reply (zext32 s.regs.err)) = 0#32 then ImageResult.stream bytes else .discarded) = _
  simp only [lastRead_reply, zext32_err_eq_zero]

end Sys2Proof.Machine
end

