-- ==== Sys2Proof/Laws/State.lean ====
section
/-! SUPPORT. One lemma per field per update of the state, true by unfolding, so that no later proof unfolds an update. The registers
are one field; the projections of the updated register record reduce by themselves. -/

namespace Sys2Proof.Machine

@[simp] theorem State.loadPixel_regs (s : State) (n : Fin 16) (v : Word) : (s.loadPixel n v).regs = { s.regs with pix := s.regs.pix.set n.val v, pixv := pixvWith s.regs.pixv n } := rfl
@[simp] theorem State.loadPixel_pending (s : State) (n : Fin 16) (v : Word) : (s.loadPixel n v).pending = s.pending := rfl
@[simp] theorem State.loadPixel_reads (s : State) (n : Fin 16) (v : Word) : (s.loadPixel n v).reads = s.reads := rfl
@[simp] theorem State.loadPixel_draws (s : State) (n : Fin 16) (v : Word) : (s.loadPixel n v).draws = s.draws := rfl
@[simp] theorem State.loadPixel_resets (s : State) (n : Fin 16) (v : Word) : (s.loadPixel n v).resets = s.resets := rfl

@[simp] theorem State.setQuality_regs (s : State) (q : BitVec 8) : (s.setQuality q).regs = { s.regs with quality := q } := rfl
@[simp] theorem State.setQuality_pending (s : State) (q : BitVec 8) : (s.setQuality q).pending = s.pending := rfl
@[simp] theorem State.setQuality_reads (s : State) (q : BitVec 8) : (s.setQuality q).reads = s.reads := rfl
@[simp] theorem State.setQuality_draws (s : State) (q : BitVec 8) : (s.setQuality q).draws = s.draws := rfl
@[simp] theorem State.setQuality_resets (s : State) (q : BitVec 8) : (s.setQuality q).resets = s.resets := rfl

@[simp] theorem State.setImgW_regs (s : State) (v : Word) : (s.setImgW v).regs = { s.regs with imgW := v } := rfl
@[simp] theorem State.setImgW_pending (s : State) (v : Word) : (s.setImgW v).pending = s.pending := rfl
@[simp] theorem State.setImgW_reads (s : State) (v : Word) : (s.setImgW v).reads = s.reads := rfl
@[simp] theorem State.setImgW_draws (s : State) (v : Word) : (s.setImgW v).draws = s.draws := rfl
@[simp] theorem State.setImgW_resets (s : State) (v : Word) : (s.setImgW v).resets = s.resets := rfl

@[simp] theorem State.setImgH_regs (s : State) (v : Word) : (s.setImgH v).regs = { s.regs with imgH := v } := rfl
@[simp] theorem State.setImgH_pending (s : State) (v : Word) : (s.setImgH v).pending = s.pending := rfl
@[simp] theorem State.setImgH_reads (s : State) (v : Word) : (s.setImgH v).reads = s.reads := rfl
@[simp] theorem State.setImgH_draws (s : State) (v : Word) : (s.setImgH v).draws = s.draws := rfl
@[simp] theorem State.setImgH_resets (s : State) (v : Word) : (s.setImgH v).resets = s.resets := rfl

@[simp] theorem State.raise_regs (s : State) (f : CoreFault) : (s.raise f).regs = { s.regs with err := errWith s.regs.err f } := rfl
@[simp] theorem State.raise_pending (s : State) (f : CoreFault) : (s.raise f).pending = s.pending := rfl
@[simp] theorem State.raise_reads (s : State) (f : CoreFault) : (s.raise f).reads = s.reads := rfl
@[simp] theorem State.raise_draws (s : State) (f : CoreFault) : (s.raise f).draws = s.draws := rfl
@[simp] theorem State.raise_resets (s : State) (f : CoreFault) : (s.raise f).resets = s.resets := rfl

@[simp] theorem State.clearErr_regs (s : State) : (s.clearErr).regs = { s.regs with err := 0#5 } := rfl
@[simp] theorem State.clearErr_pending (s : State) : (s.clearErr).pending = s.pending := rfl
@[simp] theorem State.clearErr_reads (s : State) : (s.clearErr).reads = s.reads := rfl
@[simp] theorem State.clearErr_draws (s : State) : (s.clearErr).draws = s.draws := rfl
@[simp] theorem State.clearErr_resets (s : State) : (s.clearErr).resets = s.resets := rfl

@[simp] theorem State.clearPixv_regs (s : State) : (s.clearPixv).regs = { s.regs with pixv := 0#16 } := rfl
@[simp] theorem State.clearPixv_pending (s : State) : (s.clearPixv).pending = s.pending := rfl
@[simp] theorem State.clearPixv_reads (s : State) : (s.clearPixv).reads = s.reads := rfl
@[simp] theorem State.clearPixv_draws (s : State) : (s.clearPixv).draws = s.draws := rfl
@[simp] theorem State.clearPixv_resets (s : State) : (s.clearPixv).resets = s.resets := rfl

@[simp] theorem State.dropResult_regs (s : State) : (s.dropResult).regs = { s.regs with rv := false } := rfl
@[simp] theorem State.dropResult_pending (s : State) : (s.dropResult).pending = s.pending := rfl
@[simp] theorem State.dropResult_reads (s : State) : (s.dropResult).reads = s.reads := rfl
@[simp] theorem State.dropResult_draws (s : State) : (s.dropResult).draws = s.draws := rfl
@[simp] theorem State.dropResult_resets (s : State) : (s.dropResult).resets = s.resets := rfl

@[simp] theorem State.commitResult_regs (s : State) (blk : BitVec 64) (sc win : Nat) : (s.commitResult blk sc win).regs = 
      { s.regs with out := blk, score := BitVec.ofNat 32 sc, winner := BitVec.ofNat 8 win, rv := true,
                    dist := s.regs.dist + BitVec.ofNat 64 sc, blkCnt := s.regs.blkCnt + 1#32 } := rfl
@[simp] theorem State.commitResult_pending (s : State) (blk : BitVec 64) (sc win : Nat) : (s.commitResult blk sc win).pending = s.pending := rfl
@[simp] theorem State.commitResult_reads (s : State) (blk : BitVec 64) (sc win : Nat) : (s.commitResult blk sc win).reads = s.reads := rfl
@[simp] theorem State.commitResult_draws (s : State) (blk : BitVec 64) (sc win : Nat) : (s.commitResult blk sc win).draws = s.draws := rfl
@[simp] theorem State.commitResult_resets (s : State) (blk : BitVec 64) (sc win : Nat) : (s.commitResult blk sc win).resets = s.resets := rfl

@[simp] theorem State.clearTotals_regs (s : State) : (s.clearTotals).regs = { s.regs with dist := 0#64, blkCnt := 0#32 } := rfl
@[simp] theorem State.clearTotals_pending (s : State) : (s.clearTotals).pending = s.pending := rfl
@[simp] theorem State.clearTotals_reads (s : State) : (s.clearTotals).reads = s.reads := rfl
@[simp] theorem State.clearTotals_draws (s : State) : (s.clearTotals).draws = s.draws := rfl
@[simp] theorem State.clearTotals_resets (s : State) : (s.clearTotals).resets = s.resets := rfl

@[simp] theorem State.reply_regs (s : State) (v : Word) : (s.reply v).regs = s.regs := rfl
@[simp] theorem State.reply_pending (s : State) (v : Word) : (s.reply v).pending = s.pending := rfl
@[simp] theorem State.reply_reads (s : State) (v : Word) : (s.reply v).reads = s.reads ++ [v] := rfl
@[simp] theorem State.reply_draws (s : State) (v : Word) : (s.reply v).draws = s.draws := rfl
@[simp] theorem State.reply_resets (s : State) (v : Word) : (s.reply v).resets = s.resets := rfl

@[simp] theorem State.replyUnspecified_regs (s : State) : (s.replyUnspecified).regs = s.regs := rfl
@[simp] theorem State.replyUnspecified_pending (s : State) : (s.replyUnspecified).pending = s.pending := rfl
@[simp] theorem State.replyUnspecified_reads (s : State) : (s.replyUnspecified).reads = s.reads ++ [Config.freeRead s.draws] := rfl
@[simp] theorem State.replyUnspecified_draws (s : State) : (s.replyUnspecified).draws = s.draws + 1 := rfl
@[simp] theorem State.replyUnspecified_resets (s : State) : (s.replyUnspecified).resets = s.resets := rfl

@[simp] theorem State.resetCore_regs (s : State) : (s.resetCore).regs = Regs.afterReset s.resets := rfl
@[simp] theorem State.resetCore_pending (s : State) : (s.resetCore).pending = s.pending := rfl
@[simp] theorem State.resetCore_reads (s : State) : (s.resetCore).reads = s.reads := rfl
@[simp] theorem State.resetCore_draws (s : State) : (s.resetCore).draws = s.draws := rfl
@[simp] theorem State.resetCore_resets (s : State) : (s.resetCore).resets = s.resets + 1 := rfl

@[simp] theorem State.withMove_regs (s : State) (tw : TW) : (s.withMove tw).regs = s.regs := rfl
@[simp] theorem State.withMove_pending (s : State) (tw : TW) : (s.withMove tw).pending = .transaction tw :: s.pending := rfl
@[simp] theorem State.withMove_reads (s : State) (tw : TW) : (s.withMove tw).reads = s.reads := rfl
@[simp] theorem State.withMove_draws (s : State) (tw : TW) : (s.withMove tw).draws = s.draws := rfl
@[simp] theorem State.withMove_resets (s : State) (tw : TW) : (s.withMove tw).resets = s.resets := rfl

@[simp] theorem State.replyIf_true (s : State) (v : Word) : s.replyIf true v = s.reply v := rfl
@[simp] theorem State.replyIf_false (s : State) (v : Word) : s.replyIf false v = s.replyUnspecified := rfl

@[simp] theorem State.replyIf_regs (s : State) (b : Bool) (v : Word) : (s.replyIf b v).regs = s.regs := by cases b <;> rfl
@[simp] theorem State.replyIf_pending (s : State) (b : Bool) (v : Word) : (s.replyIf b v).pending = s.pending := by cases b <;> rfl
@[simp] theorem State.replyIf_resets (s : State) (b : Bool) (v : Word) : (s.replyIf b v).resets = s.resets := by cases b <;> rfl

end Sys2Proof.Machine
end

