-- ==== Sys2Proof/Laws/Ops.lean ====
section
/-! SUPPORT. One lemma for each shared operation that says what it does in the spec's terms (bit by bit, pixel by pixel), and one
that says what a step can do. Proofs cite these instead of unfolding the operations. -/

namespace Sys2Proof.Machine

/-- Raising a fault sets its bit and no other (10_state R30). -/
theorem errWith_getLsbD (e : BitVec 5) (f : CoreFault) (k : Nat) :
    (errWith e f).getLsbD k = (e.getLsbD k || decide (f.code = k)) := by
  have h : f.code < 5 := by cases f <;> decide
  rw [errWith, CoreFault.mask, BitVec.getLsbD_or, BitVec.getLsbD_twoPow]
  by_cases hk : f.code = k
  · subst hk; simp [h]
  · simp [hk]

/-- After a fault some bit of `ERR` is set (60 R236). -/
theorem errAny_errWith (e : BitVec 5) (f : CoreFault) : errAny (errWith e f) = true := by
  have h : (errWith e f).getLsbD f.code = true := by rw [errWith_getLsbD]; simp
  simp only [errAny, bne_iff_ne, ne_eq]
  intro h0
  rw [h0] at h
  simp at h

/-- Loading pixel `n` sets its valid bit and no other (10_state R22). -/
theorem pixValid_pixvWith (v : BitVec 16) (n m : Fin 16) :
    pixValid (pixvWith v n) m = (pixValid v m || decide (n = m)) := by
  rw [pixValid, pixvWith, BitVec.getLsbD_or, BitVec.getLsbD_twoPow, pixValid]
  by_cases hm : n = m
  · subst hm; simp
  · have : n.val ≠ m.val := fun h => hm (Fin.ext h)
    simp [hm, this]

/-- Loading pixel `n` replaces that register and no other (40 R100). -/
theorem State.loadPixel_pix (s : State) (n m : Fin 16) (v : Word) :
    (s.loadPixel n v).regs.pix.get m = if m = n then v else s.regs.pix.get m := by
  simp only [State.loadPixel_regs, Vector.get_eq_getElem, Vector.getElem_set]
  by_cases hm : m = n
  · subst hm; simp
  · have : n.val ≠ m.val := fun h => hm (Fin.ext h.symm)
    simp [hm, this]

/-- `ERRANY` is 0 exactly when no fault is pending (10_state R29). -/
theorem errAny_eq_false {e : BitVec 5} : errAny e = false ↔ e = 0#5 := by simp [errAny]

/-- `BLKRDY` is 1 exactly when all sixteen valid bits are set (10_state R29). -/
theorem blkRdy_eq_true {v : BitVec 16} : blkRdy v = true ↔ v = 0xFFFF#16 := by simp [blkRdy]

/-- What `cmd.enc` does when it is ready (40 R106). -/
theorem execCmdEnc_ready {s : State} (he : s.regs.err = 0#5) (hp : s.regs.pixv = 0xFFFF#16) :
    execCmdEnc s = .next s.encodePixels := by
  rw [execCmdEnc, errAny_eq_false.mpr he, blkRdy_eq_true.mpr hp]
  rfl

/-- What `cmd.enc` does while a fault is pending (40 R106). -/
theorem execCmdEnc_refused {s : State} (he : s.regs.err ≠ 0#5) : execCmdEnc s = .next (s.raise .refused).dropResult := by
  have : errAny s.regs.err = true := by simpa [errAny] using he
  rw [execCmdEnc, this]
  rfl

/-- What `cmd.enc` does when a pixel is missing (40 R106). -/
theorem execCmdEnc_incomplete {s : State} (he : s.regs.err = 0#5) (hp : s.regs.pixv ≠ 0xFFFF#16) :
    execCmdEnc s = .next (s.raise .incompleteBlock).dropResult := by
  have : blkRdy s.regs.pixv = false := by simpa [blkRdy] using hp
  rw [execCmdEnc, errAny_eq_false.mpr he, this]
  rfl

/-- A dimension passes exactly when it is a multiple of 4 (40 R107). -/
theorem multipleOf4_iff (v : Word) : multipleOf4 v = true ↔ v.toNat % 4 = 0 := by
  rw [multipleOf4, beq_iff_eq, ← BitVec.toNat_inj, BitVec.extractLsb'_toNat]
  simp

/-- Everything `cmd.enc` can do, and when (40 R106). -/
theorem execCmdEnc_cases (s : State) :
    (s.regs.err ≠ 0#5 ∧ execCmdEnc s = .next (s.raise .refused).dropResult) ∨
    (s.regs.err = 0#5 ∧ s.regs.pixv ≠ 0xFFFF#16 ∧ execCmdEnc s = .next (s.raise .incompleteBlock).dropResult) ∨
    (s.regs.err = 0#5 ∧ s.regs.pixv = 0xFFFF#16 ∧ execCmdEnc s = .next s.encodePixels) := by
  by_cases he : s.regs.err = 0#5
  · by_cases hp : s.regs.pixv = 0xFFFF#16
    · exact .inr (.inr ⟨he, hp, execCmdEnc_ready he hp⟩)
    · exact .inr (.inl ⟨he, hp, execCmdEnc_incomplete he hp⟩)
  · exact .inl ⟨he, execCmdEnc_refused he⟩

/-- Everything `cmd.frame` can do, and when (40 R107). -/
theorem execCmdFrame_cases (s : State) :
    (s.regs.err ≠ 0#5 ∧ execCmdFrame s = .next (s.raise .refused)) ∨
    (s.regs.err = 0#5 ∧ ¬(s.regs.imgW.toNat % 4 = 0 ∧ s.regs.imgH.toNat % 4 = 0) ∧
      execCmdFrame s = .next (s.raise .invalidDimensions)) ∨
    (s.regs.err = 0#5 ∧ (s.regs.imgW.toNat % 4 = 0 ∧ s.regs.imgH.toNat % 4 = 0) ∧ execCmdFrame s = .next s.clearTotals) := by
  by_cases he : s.regs.err = 0#5
  · by_cases hd : s.regs.imgW.toNat % 4 = 0 ∧ s.regs.imgH.toNat % 4 = 0
    · have h : (multipleOf4 s.regs.imgW && multipleOf4 s.regs.imgH) = true := by
        rw [Bool.and_eq_true, multipleOf4_iff, multipleOf4_iff]; exact hd
      exact .inr (.inr ⟨he, hd, by rw [execCmdFrame, errAny_eq_false.mpr he, h]; rfl⟩)
    · have h : (multipleOf4 s.regs.imgW && multipleOf4 s.regs.imgH) = false := by
        rw [← Bool.not_eq_true, Bool.and_eq_true, multipleOf4_iff, multipleOf4_iff]; exact hd
      exact .inr (.inl ⟨he, hd, by rw [execCmdFrame, errAny_eq_false.mpr he, h]; rfl⟩)
  · have h : errAny s.regs.err = true := by simpa [errAny] using he
    exact .inl ⟨he, by rw [execCmdFrame, h]; rfl⟩

/-- The bit each fault sets, as `ERR` is laid out (10_state R30). -/
theorem errWith_mask (e : BitVec 5) :
    errWith e .invalidDimensions = e ||| 0b00001#5 ∧ errWith e .incompleteBlock = e ||| 0b00010#5 ∧
    errWith e .illegalCommand = e ||| 0b00100#5 ∧ errWith e .badAccess = e ||| 0b01000#5 ∧
    errWith e .refused = e ||| 0b10000#5 := ⟨rfl, rfl, rfl, rfl, rfl⟩

@[simp] theorem takeMove_nil {s : State} (h : s.pending = []) : s.takeMove = none := by rw [State.takeMove, h]

@[simp] theorem takeMove_cons {s : State} {m : HostMove} {rest : List HostMove} (h : s.pending = m :: rest) :
    s.takeMove = some (m, { s with pending := rest }) := by rw [State.takeMove, h]

/-- What a step that answers a next state can have done: wait, take a reset, or perform one decoded transaction. -/
theorem step_cases {s t : State} (h : step s = .next t) :
    (s.pending = [] ∧ t = s) ∨
    (∃ rest, s.pending = .reset :: rest ∧ t = { s with pending := rest }.resetCore) ∨
    (∃ tw rest i, s.pending = .transaction tw :: rest ∧ decode tw = .ok i ∧ exec i { s with pending := rest } = .next t) := by
  rcases hp : s.pending with _ | ⟨m, rest⟩
  · left
    rw [step, takeMove_nil hp] at h
    cases h
    exact ⟨rfl, rfl⟩
  · right
    rw [step, takeMove_cons hp] at h
    cases m with
    | reset =>
      left
      cases h
      exact ⟨rest, rfl, rfl⟩
    | transaction tw =>
      right
      simp only [stepTransaction] at h
      cases hd : decode tw with
      | error e => rw [hd] at h; cases h
      | ok i =>
        rw [hd] at h
        exact ⟨tw, rest, i, rfl, hd, h⟩

end Sys2Proof.Machine
end

