-- ==== Sys2Proof/Laws/PerInstr.lean ====
section
/-! SUPPORT. The per-instruction family EncodesValid: the word an operation encodes to is a valid transaction word (30_encoding R70):
bits 62:40 are 0, and a read carries no data. -/

namespace Sys2Proof.Laws.EncodesValid

/-- The encoded word is a valid transaction word. -/
def Statement (i : Instr) : Prop :=
  twZero (encode i) = 0#23 ∧ (twWrite (encode i) = false → twData (encode i) = 0#32)

/-- Every write transaction word is valid. -/
theorem of_write (a : Addr) (d : Word) : twZero (packTW true a d) = 0#23 ∧ (twWrite (packTW true a d) = false → twData (packTW true a d) = 0#32) := by
  simp

/-- Every read transaction word is valid. -/
theorem of_read (a : Addr) : twZero (packTW false a 0#32) = 0#23 ∧ (twWrite (packTW false a 0#32) = false → twData (packTW false a 0#32) = 0#32) := by
  simp

theorem wpix (n : Fin 16) (v : Word) : Statement (.wpix n v) := of_write _ _
theorem wqual (v : Word) : Statement (.wqual v) := of_write _ _
theorem wimgw (v : Word) : Statement (.wimgw v) := of_write _ _
theorem wimgh (v : Word) : Statement (.wimgh v) := of_write _ _
theorem cmdNop : Statement .cmdNop := of_write _ _
theorem cmdEnc : Statement .cmdEnc := of_write _ _
theorem cmdFrame : Statement .cmdFrame := of_write _ _
theorem cmdClrerr : Statement .cmdClrerr := of_write _ _
theorem cmdClrpix : Statement .cmdClrpix := of_write _ _
theorem cmdSrst : Statement .cmdSrst := of_write _ _
theorem rpix (n : Fin 16) : Statement (.rpix n) := of_read _
theorem rqual : Statement .rqual := of_read _
theorem rimgw : Statement .rimgw := of_read _
theorem rimgh : Statement .rimgh := of_read _
theorem rstatus : Statement .rstatus := of_read _
theorem rerr : Statement .rerr := of_read _
theorem rpixv : Statement .rpixv := of_read _
theorem routlo : Statement .routlo := of_read _
theorem routhi : Statement .routhi := of_read _
theorem rscore : Statement .rscore := of_read _
theorem rwinner : Statement .rwinner := of_read _
theorem rblkcnt : Statement .rblkcnt := of_read _
theorem rdistlo : Statement .rdistlo := of_read _
theorem rdisthi : Statement .rdisthi := of_read _
theorem illCmd (data : Word) : Statement (.illCmd data) := of_write _ _
theorem badW (addr : Addr) (data : Word) : Statement (.badW addr data) := of_write _ _
theorem badR (addr : Addr) : Statement (.badR addr) := of_read _

end Sys2Proof.Laws.EncodesValid
end

