-- ==== Sys2Proof/Machine/Asm.lean ====
section
/-! DEFINITION. The assembler syntax of 30_encoding R77 and the pseudo-operations of R78, as a reader of one line of text. It is how
programs are written down, no part of the core. -/

namespace Sys2Proof.Machine

/-- One line of a program: the operations it stands for, and the value its read is expected to return, if it states one (R77). -/
structure AsmLine where
  ops : List Instr
  expect : Option Word
  deriving DecidableEq, Repr

/-- The name of a register (30_encoding R72). -/
def regText : RegName → String
  | .pix n => "PIX" ++ toString n.val
  | .quality => "QUALITY"
  | .imgW => "IMG_W"
  | .imgH => "IMG_H"
  | .cmd => "CMD"
  | .status => "STATUS"
  | .err => "ERR"
  | .pixvld => "PIXVLD"
  | .outLo => "OUT_LO"
  | .outHi => "OUT_HI"
  | .score => "SCORE"
  | .winner => "WINNER"
  | .blkCnt => "BLK_CNT"
  | .distLo => "DIST_LO"
  | .distHi => "DIST_HI"

/-- The value of a digit in hexadecimal; a decimal digit has a value below 10. -/
def digitValue (c : Char) : Option Nat :=
  if '0' ≤ c ∧ c ≤ '9' then some (c.toNat - '0'.toNat)
  else if 'a' ≤ c ∧ c ≤ 'f' then some (c.toNat - 'a'.toNat + 10)
  else if 'A' ≤ c ∧ c ≤ 'F' then some (c.toNat - 'A'.toNat + 10)
  else none

/-- The number spelled by digits in a base, after the value `acc` of the digits before them. -/
def digitsFrom (radix acc : Nat) : List Char → Option Nat
  | [] => some acc
  | c :: rest =>
    match digitValue c with
    | some d => if d < radix then digitsFrom radix (acc * radix + d) rest else none
    | none => none

/-- A literal in decimal or `0x` hexadecimal (R77). -/
def numberOf : List Char → Option Nat
  | [] => none
  | '0' :: 'x' :: c :: rest => digitsFrom 16 0 (c :: rest)
  | c :: rest => digitsFrom 10 0 (c :: rest)

/-- A literal below a bound (R77: "a 32-bit literal"). -/
def numberBelow (bound : Nat) (t : List Char) : Option Nat :=
  match numberOf t with
  | some v => if v < bound then some v else none
  | none => none

/-- The characters before a comment (R77: `;` starts a comment). -/
def withoutComment (line : List Char) : List Char := line.takeWhile fun c => c != ';'

/-- Characters that separate the parts of a line: blanks, commas, and the brackets of a colour literal. -/
def isSeparator (c : Char) : Bool := c == ' ' || c == ',' || c == '(' || c == ')' || c == '\t'

/-- The parts of a line; `word` holds the part being read, last character first. -/
def partsFrom (word : List Char) : List Char → List (List Char)
  | [] => if word.isEmpty then [] else [word.reverse]
  | c :: rest =>
    if isSeparator c then
      if word.isEmpty then partsFrom [] rest else word.reverse :: partsFrom [] rest
    else partsFrom (c :: word) rest

/-- A channel of a colour literal: a decimal number 0..255 (R77). -/
def chanOf (t : List Char) : Option Chan :=
  if t.isEmpty then none
  else match digitsFrom 10 0 t with
    | some v => if v < 256 then some (BitVec.ofNat 8 v) else none
    | none => none

/-- `rgba(r, g, b, a)`, which denotes `r | g<<8 | b<<16 | a<<24` (R77, R80). -/
def colourOf (r g b a : List Char) : Option Word :=
  match chanOf r, chanOf g, chanOf b, chanOf a with
  | some r, some g, some b, some a => some (wordOfColor ⟨r, g, b, a⟩)
  | _, _, _, _ => none

/-- One VALUE at the head of the parts, with the parts after it (R77). -/
def valueOf : List (List Char) → Option (Word × List (List Char))
  | [] => none
  | t :: rest =>
    if t = "rgba".toList then
      match rest with
      | r :: g :: b :: a :: rest' => (colourOf r g b a).map fun w => (w, rest')
      | _ => none
    else (numberBelow (2 ^ 32) t).map fun v => (BitVec.ofNat 32 v, rest)

/-- `count` VALUEs and nothing after them. -/
def valuesOf : Nat → List (List Char) → Option (List Word)
  | 0, [] => some []
  | 0, _ :: _ => none
  | n + 1, parts =>
    match valueOf parts with
    | some (w, rest) => (valuesOf n rest).map fun ws => w :: ws
    | none => none

/-- A REG: a register name or a numeric offset (R77). -/
def regOf (t : List Char) : Option Addr :=
  match allRegs.find? fun r => (regText r).toList == t with
  | some r => some r.offset
  | none => (numberBelow 256 t).map fun v => BitVec.ofNat 8 v

/-- A pixel number. -/
def pixelOf (t : List Char) : Option (Fin 16) :=
  match numberOf t with
  | some v => if h : v < 16 then some ⟨v, h⟩ else none
  | none => none

/-- The operations and pseudo-operations that take no operand (R77, R78). -/
def plainNames : List (String × List Instr) :=
  [("cmd.nop", [.cmdNop]), ("cmd.enc", [.cmdEnc]), ("cmd.frame", [.cmdFrame]), ("cmd.clrerr", [.cmdClrerr]),
   ("cmd.clrpix", [.cmdClrpix]), ("cmd.srst", [.cmdSrst]), ("rqual", [.rqual]), ("rimgw", [.rimgw]), ("rimgh", [.rimgh]),
   ("rstatus", [.rstatus]), ("rerr", [.rerr]), ("rpixv", [.rpixv]), ("routlo", [.routlo]), ("routhi", [.routhi]),
   ("rscore", [.rscore]), ("rwinner", [.rwinner]), ("rblkcnt", [.rblkcnt]), ("rdistlo", [.rdistlo]), ("rdisthi", [.rdisthi]),
   ("getblk", getblk), ("getdist", getdist)]

/-- Sixteen colour words as a block's words. -/
def sixteen (ws : List Word) : Option (Vector Word 16) :=
  if h : ws.length = 16 then some ⟨⟨ws⟩, by simpa using h⟩ else none

/-- A line's operation with its VALUE operands only (R77, R78). -/
def withValues (name : List Char) (args : List (List Char)) : Option (List Instr) :=
  if name = "wqual".toList then (valuesOf 1 args).map fun ws => ws.map Instr.wqual
  else if name = "wimgw".toList then (valuesOf 1 args).map fun ws => ws.map Instr.wimgw
  else if name = "wimgh".toList then (valuesOf 1 args).map fun ws => ws.map Instr.wimgh
  else if name = "fill".toList then (valuesOf 1 args).map fun ws => ws.flatMap fill
  else if name = "frame".toList then (valuesOf 2 args).map fun ws => frameOps (ws.getD 0 0#32) (ws.getD 1 0#32)
  else if name = "ldblk".toList then ((valuesOf 16 args).bind sixteen).map ldblk
  else if name = "encblk".toList then
    (valuesOf 17 args).bind fun ws => (sixteen ws.tail).map fun b => encblk (ws.headD 0#32) b
  else none

/-- A line's operation with a register or pixel operand, or none (R77). -/
def operationOf (name : List Char) (args : List (List Char)) : Option (List Instr) :=
  match plainNames.find? fun p => p.1.toList == name with
  | some p => if args.isEmpty then some p.2 else none
  | none =>
    match args with
    | [] => none
    | first :: rest =>
      if name = "wpix".toList then
        match pixelOf first, valuesOf 1 rest with
        | some n, some ws => some (ws.map fun w => .wpix n w)
        | _, _ => none
      else if name = "rpix".toList then
        if rest.isEmpty then (pixelOf first).map fun n => [.rpix n] else none
      else if name = "wr".toList then
        match regOf first, valuesOf 1 rest with
        | some a, some ws => some (ws.map fun w => decodeWrite a w)
        | _, _ => none
      else if name = "rd".toList then
        if rest.isEmpty then (regOf first).map fun a => [decodeRead a] else none
      else withValues name args

/-- The expected value after `->`, which only a single read may have (R77). -/
def expectationOf (ops : List Instr) (parts : List (List Char)) : Option AsmLine :=
  match parts with
  | [] => some ⟨ops, none⟩
  | _ :: value =>
    match ops, valuesOf 1 value with
    | [i], some [w] => if i.isWrite then none else some ⟨[i], some w⟩
    | _, _ => none

/-- One line of a program: an empty line stands for no operation; a line that is not of the syntax has no meaning (R77, R78). -/
def assembleLine (line : List Char) : Option AsmLine :=
  match partsFrom [] (withoutComment line) with
  | [] => some ⟨[], none⟩
  | name :: rest =>
    (operationOf name (rest.takeWhile fun t => t != "->".toList)).bind fun ops =>
      expectationOf ops (rest.dropWhile fun t => t != "->".toList)

end Sys2Proof.Machine
end

