-- ==== Sys2Proof/Tests/Slice0.lean ====
section
/-! SUPPORT. The model's own tests: ill-formed terms refused, words written out from the spec's encodings, the spec's vectors
(95_test_vectors), one or two single transactions an instruction, and for each statement with hypotheses a witness that meets them. -/

namespace Sys2Proof.Tests

open Sys2Proof Sys2Proof.Machine

/-! ### Ill-formed operations are refused by the check (30_encoding R75; 40 R111, R125, R126) -/

theorem test_illFormed_illCmd : (Instr.illCmd 5#32).wellFormed = false := by decide
theorem test_illFormed_badW : (Instr.badW 0x4C#8 7#32).wellFormed = false := by decide
theorem test_illFormed_badR : (Instr.badR 0x50#8).wellFormed = false := by decide

/-! ### Decoding: one word per constructor, written out from 40_host_commands ("TW = ...") -/

theorem test_decode_wpix : decode 0x80000014FFFFFFFF#64 = .ok (.wpix 5 0xFFFFFFFF#32) := by rfl
theorem test_decode_wpix_last : decode 0x8000003C00000001#64 = .ok (.wpix 15 1#32) := by rfl
theorem test_decode_wqual : decode 0x8000004000000002#64 = .ok (.wqual 2#32) := by rfl
theorem test_decode_wimgw : decode 0x8000004400000008#64 = .ok (.wimgw 8#32) := by rfl
theorem test_decode_wimgh : decode 0x8000004800000006#64 = .ok (.wimgh 6#32) := by rfl
theorem test_decode_cmdNop : decode 0x8000004C00000000#64 = .ok .cmdNop := by rfl
theorem test_decode_cmdEnc : decode 0x8000004C00000001#64 = .ok .cmdEnc := by rfl
theorem test_decode_cmdFrame : decode 0x8000004C00000002#64 = .ok .cmdFrame := by rfl
theorem test_decode_cmdClrerr : decode 0x8000004C00000003#64 = .ok .cmdClrerr := by rfl
theorem test_decode_cmdClrpix : decode 0x8000004C00000004#64 = .ok .cmdClrpix := by rfl
theorem test_decode_cmdSrst : decode 0x8000004C00000005#64 = .ok .cmdSrst := by rfl
theorem test_decode_rpix : decode 0x0000001400000000#64 = .ok (.rpix 5) := by rfl
theorem test_decode_rqual : decode 0x0000004000000000#64 = .ok .rqual := by rfl
theorem test_decode_rimgw : decode 0x0000004400000000#64 = .ok .rimgw := by rfl
theorem test_decode_rimgh : decode 0x0000004800000000#64 = .ok .rimgh := by rfl
theorem test_decode_rstatus : decode 0x0000005000000000#64 = .ok .rstatus := by rfl
theorem test_decode_rerr : decode 0x0000005400000000#64 = .ok .rerr := by rfl
theorem test_decode_rpixv : decode 0x0000005800000000#64 = .ok .rpixv := by rfl
theorem test_decode_routlo : decode 0x0000005C00000000#64 = .ok .routlo := by rfl
theorem test_decode_routhi : decode 0x0000006000000000#64 = .ok .routhi := by rfl
theorem test_decode_rscore : decode 0x0000006400000000#64 = .ok .rscore := by rfl
theorem test_decode_rwinner : decode 0x0000006800000000#64 = .ok .rwinner := by rfl
theorem test_decode_rblkcnt : decode 0x0000006C00000000#64 = .ok .rblkcnt := by rfl
theorem test_decode_rdistlo : decode 0x0000007000000000#64 = .ok .rdistlo := by rfl
theorem test_decode_rdisthi : decode 0x0000007400000000#64 = .ok .rdisthi := by rfl
theorem test_decode_illCmd : decode 0x8000004C00000011#64 = .ok (.illCmd 0x11#32) := by rfl
theorem test_decode_badW : decode 0x8000006400000005#64 = .ok (.badW 0x64#8 5#32) := by rfl
theorem test_decode_badW_misaligned : decode 0x8000000200000001#64 = .ok (.badW 0x02#8 1#32) := by rfl
theorem test_decode_badR : decode 0x0000004C00000000#64 = .ok (.badR 0x4C#8) := by rfl
theorem test_decode_badR_reserved : decode 0x0000007800000000#64 = .ok (.badR 0x78#8) := by rfl
theorem test_decode_reservedBit : decode 0x0000010000000000#64 = .error .reservedBitsSet := by rfl
theorem test_decode_readWithData : decode 0x0000004000000001#64 = .error .readWithData := by rfl
theorem test_decodeTableWord : decodeTableWord 64 0x8000004C00000005 = some .cmdSrst := by decide

/-! ### The datapath: the vectors of 95_test_vectors part 2 -/

/-- V-Q2, V-Q5 -/
theorem test_quantize :
    quantize ⟨123, 45, 67, 200⟩ = ⟨120, 44, 64, 128⟩ ∧ quantize ⟨200, 100, 50, 129⟩ = ⟨200, 100, 48, 128⟩ := by decide
theorem test_enc565 : enc565 ⟨123, 45, 67, 200⟩ = 0x7968#16 ∧ enc565 ⟨200, 100, 50, 129⟩ = 0xCB26#16 := by decide
/-- V-S1, V-S3 -/
theorem test_sort : sortAndQuantize ⟨255, 0, 0, 255⟩ ⟨0, 255, 0, 255⟩ = ⟨⟨0, 252, 0, 128⟩, ⟨248, 0, 0, 128⟩⟩ ∧
    sortAndQuantize ⟨9, 5, 9, 255⟩ ⟨15, 7, 15, 0⟩ = ⟨⟨8, 4, 8, 128⟩, ⟨8, 4, 8, 0⟩⟩ := by decide
/-- V-X2, V-X5, V-X7 -/
theorem test_extrapolate : extrapolate ⟨100, 100, 100, 0⟩ ⟨120, 110, 100, 0⟩ = (⟨85, 92, 100, 0⟩, ⟨135, 117, 100, 0⟩) ∧
    extrapolate ⟨200, 50, 128, 0⟩ ⟨100, 150, 130, 0⟩ = (⟨255, 0, 126, 0⟩, ⟨25, 225, 131, 0⟩) ∧
    extrapolate ⟨255, 0, 128, 0⟩ ⟨254, 1, 127, 0⟩ = (⟨255, 0, 128, 0⟩, ⟨253, 1, 126, 0⟩) := by decide
theorem test_pidx : pidx 0 1 = 0 ∧ pidx 0 15 = 14 ∧ pidx 1 14 = 27 ∧ pidx 4 12 = 61 ∧ pidx 5 10 = 69 ∧ pidx 14 15 = 119 := by decide
/-- V-T2, V-T5 -/
theorem test_table : buildTable ⟨8, 4, 8, 0⟩ ⟨16, 8, 24, 0⟩ = #v[⟨16, 8, 24, 0⟩, ⟨8, 4, 8, 0⟩, ⟨13, 6, 18, 0⟩, ⟨10, 5, 13, 0⟩] ∧
    buildTable ⟨8, 140, 80, 128⟩ ⟨160, 52, 104, 128⟩ =
      #v[⟨160, 52, 104, 128⟩, ⟨8, 140, 80, 128⟩, ⟨109, 81, 96, 128⟩, ⟨58, 110, 88, 128⟩] := by decide
/-- 42 R161: the order LOW_FIRST -/
theorem test_tableLowFirst : tableInOrder .lowFirst ⟨8, 4, 8, 0⟩ ⟨16, 8, 24, 0⟩ =
    #v[⟨8, 4, 8, 0⟩, ⟨16, 8, 24, 0⟩, ⟨10, 5, 13, 0⟩, ⟨13, 6, 18, 0⟩] := by decide
/-- V-D1, V-D2 -/
theorem test_distance : distance ⟨255, 255, 255, 255⟩ ⟨248, 252, 248, 128⟩ = 107 ∧
    distance ⟨255, 255, 255, 0⟩ ⟨0, 0, 0, 0⟩ = 195075 := by decide
/-- V-D4, V-D5, V-D6 -/
theorem test_nearest : nearest (buildTable ⟨0, 0, 0, 0⟩ ⟨24, 0, 0, 0⟩) ⟨12, 0, 0, 0⟩ = (16, 2#2) ∧
    nearest (buildTable ⟨0, 0, 0, 0⟩ ⟨24, 0, 0, 0⟩) ⟨4, 0, 0, 0⟩ = (16, 1#2) ∧
    nearest (buildTable ⟨0, 0, 0, 0⟩ ⟨24, 0, 0, 0⟩) ⟨20, 0, 0, 0⟩ = (16, 0#2) := by decide

/-- Four groups of four pixels. -/
def fourGroups (a b c d : Color) : Block := #v[a, a, a, a, b, b, b, b, c, c, c, c, d, d, d, d]

/-- Fifteen black pixels and a white one at `P[5]` (V-B2). -/
def whiteBlock : Block := (Vector.replicate 16 ⟨0, 0, 0, 255⟩).set 5 ⟨255, 255, 255, 255⟩

/-- Pixels 0..7 black, 8..15 `(7,0,0,255)` (V-B7). -/
def twoTone : Block := fourGroups ⟨0, 0, 0, 255⟩ ⟨0, 0, 0, 255⟩ ⟨7, 0, 0, 255⟩ ⟨7, 0, 0, 255⟩

/-- The block of V-B8. -/
def mirrored : Block := fourGroups ⟨8, 140, 80, 255⟩ ⟨80, 140, 8, 255⟩ ⟨160, 52, 104, 255⟩ ⟨104, 52, 160, 255⟩

/-- The gradient of V-B6. -/
def gradient : Block :=
  ⟨⟨(List.range 16).map fun i => ⟨BitVec.ofNat 8 (16 * i), BitVec.ofNat 8 (8 * i), BitVec.ofNat 8 (255 - 16 * i), 255⟩⟩, by simp⟩

/-- V-D11 -/
theorem test_score : score (buildTable ⟨8, 140, 80, 128⟩ ⟨160, 52, 104, 128⟩) mirrored = 175528 := by decide +kernel
/-- V-I3 -/
theorem test_indices : encodeIndices (buildTable ⟨8, 140, 80, 128⟩ ⟨160, 52, 104, 128⟩) mirrored = 0xAA00FF55#32 := by decide +kernel
/-- V-SEL1, V-SEL3 -/
theorem test_select : select [9, 4, 7, 4] = 1 ∧ select [3, 3, 3] = 0 := by decide
/-- V-PK2 -/
theorem test_pack : pack 0xAA00FF55#32 ⟨8, 140, 80, 128⟩ ⟨160, 52, 104, 128⟩ = 0xAA00FF550C6AA1AD#64 := by decide
/-- V-B2 bytes -/
theorem test_bytes : bytesOfBlock 0x555551550000FFFF#64 = [0xFF, 0xFF, 0x00, 0x00, 0x55, 0x51, 0x55, 0x55] := by decide
/-- V-B6 at quality 0 -/
theorem test_encode_gradient : encodeBlock gradient 0#8 = ⟨0xAAAAAFFF0001F3DF#64, 807008, 0⟩ := by decide +kernel
/-- V-B8 at quality 1: the tie between different endpoints -/
theorem test_encode_tie : encodeBlock mirrored 1#8 = ⟨0xAA00FF550C6AA1AD#64, 175528, 8⟩ := by decide +kernel
/-- V-B7 at quality 2: the first of sixty-four tied extrapolated candidates -/
theorem test_encode_extrapolated : encodeBlock twoTone 2#8 = ⟨0x0000555500000800#64, 24, 128⟩ := by decide +kernel

/-! ### Single transactions (95_test_vectors "Host operations and faults", and the examples of 40_host_commands) -/

/-- The next state of one operation. -/
def after (i : Instr) (s : State) : Option State :=
  match exec i s with
  | .next t => some t
  | .fault _ => none
  | .refused _ => none

/-- Reset with some registers set. -/
def withRegs (f : Regs → Regs) : State := { State.reset with regs := f Regs.reset }

/-- All sixteen pixels of a block loaded at a quality. -/
def loaded (P : Block) (q : BitVec 8) : State :=
  withRegs fun r => { r with pix := wordsOfBlock P, pixv := 0xFFFF#16, quality := q }

/-- A result in the result registers. -/
def withResult : State :=
  withRegs fun r => { r with rv := true, out := 0x555551550000FFFF#64, score := 1819#32, winner := 190#8 }

/-- Fault bits pending. -/
def withErr (e : BitVec 5) : State := withRegs fun r => { r with err := e }

/-- V-H3 -/
theorem test_wpix : (after (.wpix 5 0xFFFFFFFF#32) State.reset).map (fun t => (t.regs.pix.get 5, t.regs.pixv, t.regs.pix.get 4)) =
    some (0xFFFFFFFF#32, 0x0020#16, 0#32) := by decide
/-- V-H16 -/
theorem test_wqual : (after (.wqual 0x1FF#32) State.reset).map (fun t => t.regs.quality) = some 0xFF#8 := by decide
theorem test_wimgw : (after (.wimgw 8#32) State.reset).map (fun t => (t.regs.imgW, t.regs.imgH)) = some (8#32, 0#32) := by decide
theorem test_wimgh : (after (.wimgh 6#32) State.reset).map (fun t => (t.regs.imgW, t.regs.imgH)) = some (0#32, 6#32) := by decide
/-- V-H19 -/
theorem test_cmdNop : after .cmdNop (withErr 0b00100#5) = some (withErr 0b00100#5) := by decide
/-- V-E7: the white pixel at quality 2 -/
theorem test_cmdEnc : (after .cmdEnc (loaded whiteBlock 2#8)).map
      (fun t => (t.regs.out, t.regs.score, t.regs.winner, t.regs.rv, t.regs.blkCnt, t.regs.dist)) =
    some (0x555551550000FFFF#64, 1819#32, 0#8, true, 1#32, 1819#64) := by decide +kernel
/-- V-H4 -/
theorem test_cmdEnc_incomplete : (after .cmdEnc State.reset).map (fun t => (t.regs.err, t.regs.rv, t.regs.blkCnt)) =
    some (0x02#5, false, 0#32) := by decide
/-- V-H7 -/
theorem test_cmdFrame_invalid :
    (after .cmdFrame (withRegs fun r => { r with imgW := 8#32, imgH := 6#32, dist := 5#64, blkCnt := 1#32 })).map
      (fun t => (t.regs.err, t.regs.dist, t.regs.blkCnt)) = some (0x01#5, 5#64, 1#32) := by decide
/-- V-H8 -/
theorem test_cmdFrame :
    (after .cmdFrame (withRegs fun r => { r with imgW := 8#32, imgH := 4#32, dist := 5#64, blkCnt := 1#32 })).map
      (fun t => (t.regs.err, t.regs.dist, t.regs.blkCnt)) = some (0#5, 0#64, 0#32) := by decide
/-- V-H6 -/
theorem test_cmdClrerr : after .cmdClrerr (withErr 0x12#5) = some State.reset := by decide
/-- V-H18 -/
theorem test_cmdClrpix : (after .cmdClrpix (loaded whiteBlock 2#8)).map (fun t => (t.regs.pixv, t.regs.pix.get 5)) =
    some (0#16, 0xFFFFFFFF#32) := by decide
/-- V-H17 -/
theorem test_cmdSrst : (after .cmdSrst withResult).map (fun t => (t.regs.rv, t.regs.err, t.regs.pixv)) = some (false, 0#5, 0#16) := by
  decide
/-- 40 R112 -/
theorem test_rpix : (after (.rpix 5) (loaded whiteBlock 2#8)).map (fun t => t.reads) = some [0xFFFFFFFF#32] := by decide
theorem test_rpix_noValue : (after (.rpix 5) State.reset).map (fun t => (t.draws, t.regs.err)) = some (1, 0#5) := by decide
/-- 40 R113 to R124, R127: their examples -/
theorem test_rqual : (after .rqual (withRegs fun r => { r with quality := 7#8 })).map (fun t => t.reads) = some [7#32] := by decide
theorem test_rimgw : (after .rimgw (withRegs fun r => { r with imgW := 8#32 })).map (fun t => t.reads) = some [8#32] := by decide
theorem test_rimgh : (after .rimgh (withRegs fun r => { r with imgH := 4#32 })).map (fun t => t.reads) = some [4#32] := by decide
theorem test_rstatus : (after .rstatus { loaded whiteBlock 0#8 with regs.rv := true }).map (fun t => t.reads) = some [3#32] := by decide
theorem test_rstatus_err : (after .rstatus (withErr 0x0C#5)).map (fun t => t.reads) = some [4#32] := by decide
theorem test_rerr : (after .rerr (withErr 0x11#5)).map (fun t => (t.reads, t.regs.err)) = some ([0x11#32], 0x11#5) := by decide
theorem test_rpixv : (after .rpixv (withRegs fun r => { r with pixv := 0x0020#16 })).map (fun t => t.reads) = some [0x20#32] := by decide
theorem test_routlo : (after .routlo withResult).map (fun t => t.reads) = some [0x0000FFFF#32] := by decide
theorem test_routhi : (after .routhi withResult).map (fun t => t.reads) = some [0x55555155#32] := by decide
theorem test_rscore : (after .rscore withResult).map (fun t => t.reads) = some [0x71B#32] := by decide
theorem test_rwinner : (after .rwinner withResult).map (fun t => t.reads) = some [190#32] := by decide
theorem test_rblkcnt : (after .rblkcnt (withRegs fun r => { r with blkCnt := 3#32 })).map (fun t => t.reads) = some [3#32] := by decide
theorem test_rdistlo : (after .rdistlo (withRegs fun r => { r with dist := 0x500000733#64 })).map (fun t => t.reads) = some [1843#32] := by
  decide
theorem test_rdisthi : (after .rdisthi (withRegs fun r => { r with dist := 0x500000733#64 })).map (fun t => t.reads) = some [5#32] := by
  decide
/-- V-H10 -/
theorem test_illCmd : (after (.illCmd 9#32) State.reset).map (fun t => t.regs.err) = some 0x04#5 := by decide
/-- V-H13 -/
theorem test_badW : (after (.badW 0x64#8 5#32) withResult).map (fun t => (t.regs.err, t.regs.score)) = some (0x08#5, 1819#32) := by decide
/-- V-H14 -/
theorem test_badR : (after (.badR 0x4C#8) State.reset).map (fun t => (t.regs.err, t.reads)) = some (0x08#5, [0#32]) := by decide

/-- A step performs the host's next transaction (V-H5 after V-H4). -/
theorem test_step_enc : step ((withErr 0x02#5).withFetchWord 64 0x8000004C00000001) = .next (withErr 0x12#5) := by rfl

/-- 30_encoding R77, R78: lines of assembler text. -/
theorem test_asm_wr : assembleLine "wr PIX5, 0xFFFFFFFF ; one pixel".toList = some ⟨[.wpix 5 0xFFFFFFFF#32], none⟩ := by decide +kernel
theorem test_asm_rgba : assembleLine "wpix 0, rgba(123, 45, 67, 255)".toList = some ⟨[.wpix 0 0xFF432D7B#32], none⟩ := by decide +kernel
theorem test_asm_rd : assembleLine "rd 0x4C -> 0x00000000".toList = some ⟨[.badR 0x4C#8], some 0#32⟩ := by decide +kernel
theorem test_asm_frame : assembleLine "frame 8, 4".toList = some ⟨[.wimgw 8#32, .wimgh 4#32, .cmdFrame], none⟩ := by decide +kernel

/-- 70 R277: a fault pending at the end of the host's sequence discards the stream; none keeps it. -/
theorem test_hostFinish :
    hostFinish [1#8] (withErr 0b01000#5) = .next ((withErr 0b01000#5).reply 8#32, .discarded) ∧
    hostFinish [1#8] State.reset = .next (State.reset.reply 0#32, .stream [1#8]) := ⟨rfl, rfl⟩

/-! ### Witnesses: for each statement with hypotheses, states and operands that meet them -/

/-- Moves pending. -/
def withMoves (ms : List HostMove) : State := { State.reset with pending := ms }

theorem witness_StepRunsTheDecodedTransaction :
    (withMoves [.transaction 0x8000004000000002#64, .reset]).pending = .transaction 0x8000004000000002#64 :: [.reset] ∧
    decode 0x8000004000000002#64 = .ok (.wqual 2#32) := ⟨rfl, rfl⟩

theorem witness_StepRefusesWhatSpellsNoTransaction :
    (withMoves [.transaction 0x4000000000000000#64]).pending = [.transaction 0x4000000000000000#64] ∧
    decode 0x4000000000000000#64 = .error .reservedBitsSet := ⟨rfl, rfl⟩

theorem witness_StepWaitsAndTakesResets :
    State.reset.pending = [] ∧ (withMoves [.reset, .reset]).pending = .reset :: [.reset] := ⟨rfl, rfl⟩

theorem witness_ResetLeavesTheListedValues : (withMoves [.reset]).pending = .reset :: [] := rfl

theorem witness_StepsPerformTheHostsSequence :
    (∀ i ∈ [Instr.wqual 2#32, .rqual], i.wellFormed = true) ∧
    (withMoves (movesOf [.wqual 2#32, .rqual] ++ [.reset])).pending = movesOf [.wqual 2#32, .rqual] ++ [.reset] := ⟨by decide, rfl⟩

theorem witness_DecodeEncodeRoundTrip : (Instr.illCmd 6#32).wellFormed = true ∧ (Instr.illCmd 0xFFFFFFFF#32).wellFormed = true ∧
    (Instr.badW 0x50#8 0#32).wellFormed = true ∧ (Instr.badW 0x74#8 0#32).wellFormed = true ∧
    (Instr.badW 0xFF#8 0#32).wellFormed = true ∧ (Instr.badR 0x4C#8).wellFormed = true ∧ (Instr.badR 0x78#8).wellFormed = true := by decide

theorem witness_EncodeDecodeRoundTrip : decode 0x800000FFFFFFFFFF#64 = .ok (.badW 0xFF#8 0xFFFFFFFF#32) := rfl

theorem witness_DecoderIsTheOpcodeTable : request 0x0000003C00000000#64 = .ok ⟨false, 0x3C#8, 0#32⟩ := rfl

/-- Each clause at its boundary: bit 40, bit 62, a read with data; a valid read, a valid write with every data bit set. -/
theorem witness_ExactlyTheInvalidWordsAreRejected :
    (0x0000010000000000#64).toNat / 2 ^ 40 % 2 ^ 23 ≠ 0 ∧ (0xC000000000000000#64).toNat / 2 ^ 40 % 2 ^ 23 ≠ 0 ∧
    ((0x0000004000000001#64).toNat / 2 ^ 63 = 0 ∧ (0x0000004000000001#64).toNat % 2 ^ 32 ≠ 0) ∧
    ((0x000000FF00000000#64).toNat / 2 ^ 40 % 2 ^ 23 = 0 ∧
      ((0x000000FF00000000#64).toNat / 2 ^ 63 = 0 → (0x000000FF00000000#64).toNat % 2 ^ 32 = 0)) ∧
    ((0x800000FFFFFFFFFF#64).toNat / 2 ^ 40 % 2 ^ 23 = 0 ∧
      ((0x800000FFFFFFFFFF#64).toNat / 2 ^ 63 = 0 → (0x800000FFFFFFFFFF#64).toNat % 2 ^ 32 = 0)) := by decide

theorem witness_EncRunsAsItsRuleSays :
    (withErr 0b10000#5).regs.err ≠ 0#5 ∧
    ((withRegs fun r => { r with pixv := 0x7FFF#16 }).regs.err = 0#5 ∧ (withRegs fun r => { r with pixv := 0x7FFF#16 }).regs.pixv ≠ 0xFFFF#16) ∧
    ((loaded whiteBlock 255#8).regs.err = 0#5 ∧ (loaded whiteBlock 255#8).regs.pixv = 0xFFFF#16) := by decide

theorem witness_FrameRunsAsItsRuleSays :
    (withErr 0b00001#5).regs.err ≠ 0#5 ∧
    ((withRegs fun r => { r with imgW := 0xFFFFFFFF#32 }).regs.err = 0#5 ∧
      ((withRegs fun r => { r with imgW := 0xFFFFFFFF#32 }).regs.imgW.toNat % 4 ≠ 0 ∨
        (withRegs fun r => { r with imgW := 0xFFFFFFFF#32 }).regs.imgH.toNat % 4 ≠ 0)) ∧
    State.reset.frameReady := ⟨by decide, by decide, by decide, by decide, by decide⟩

theorem witness_RpixReturnsThePixelOrADraw :
    (loaded whiteBlock 0#8).regs.pixv.getLsbD (15 : Fin 16).val = true ∧ State.reset.regs.pixv.getLsbD (0 : Fin 16).val = false := by decide

theorem witness_ResultReadsReturnTheirRegisterOrADraw : withResult.regs.rv = true ∧ State.reset.regs.rv = false := by decide

/-- Each clause at the boundaries of its range. -/
theorem witness_MalformedAccessesRaiseTheirFault :
    5 < (6#32).toNat ∧ 5 < (0xFFFFFFFF#32).toNat ∧
    (∀ a ∈ [0x02#8, 0x50#8, 0x74#8, 0x78#8, 0xFF#8], a.toNat % 4 ≠ 0 ∨ 0x78 ≤ a.toNat ∨ (0x50 ≤ a.toNat ∧ a.toNat ≤ 0x74)) ∧
    (∀ a ∈ [0x4C#8, 0x4D#8, 0x78#8, 0xFF#8], a.toNat % 4 ≠ 0 ∨ 0x78 ≤ a.toNat ∨ a.toNat = 0x4C) := by decide

theorem witness_LoadedPixelReadsBack : (15 : Fin 16) ≠ 0 := by decide

theorem witness_OnlyWpixAndResetChangePixels :
    exec .cmdClrpix (loaded whiteBlock 0#8) = .next (loaded whiteBlock 0#8).clearPixv ∧
    (∀ n v, Instr.cmdClrpix ≠ .wpix n v) ∧ Instr.cmdClrpix ≠ .cmdSrst := ⟨rfl, (by intro n v h; cases h), by decide⟩

theorem witness_FaultBitsAreSticky :
    exec .cmdFrame (withErr 0b00010#5) = .next (withErr 0b10010#5) ∧ clearsFaults .cmdFrame = false ∧
    (withErr 0b00010#5).regs.err.getLsbD 1 = true := ⟨rfl, by decide, by decide⟩

theorem witness_ReadsChangeNoRegister :
    (Instr.isWrite .rerr = false ∧ exec .rerr (withErr 1#5) = .next ((withErr 1#5).reply 1#32) ∧ ∀ a, Instr.rerr ≠ .badR a) ∧
    (Instr.isWrite (.badR 0x78#8) = false ∧ exec (.badR 0x78#8) State.reset = .next ((withErr 0b01000#5).reply 0#32)) ∧
    (Instr.isWrite (.wqual 3#32) = true ∧ exec (.wqual 3#32) State.reset = .next (State.reset.setQuality 3#8)) :=
  ⟨⟨by decide, rfl, (by intro a h; cases h)⟩, ⟨by decide, rfl⟩, ⟨by decide, rfl⟩⟩

theorem witness_OnlyEncAndResetChangeTheResult :
    exec (.wpix 0 1#32) withResult = .next (withResult.loadPixel 0 1#32) ∧ Instr.wpix 0 1#32 ≠ .cmdEnc ∧ Instr.wpix 0 1#32 ≠ .cmdSrst :=
  ⟨rfl, by decide, by decide⟩

theorem witness_OneFaultPerTransaction :
    exec .cmdEnc (withErr 0b00010#5) = .next (withErr 0b10010#5) ∧ clearsFaults .cmdEnc = false := ⟨rfl, by decide⟩

theorem witness_NothingIsEncodedWhileAFaultIsPending :
    exec .cmdEnc (withErr 0b01000#5) = .next (withErr 0b11000#5) ∧ clearsFaults .cmdEnc = false ∧
    (withErr 0b01000#5).regs.err ≠ 0#5 := ⟨rfl, by decide, by decide⟩

theorem witness_EncDependsOnPixelsAndQualityAlone :
    (loaded whiteBlock 2#8).encReady ∧ ({ loaded whiteBlock 2#8 with regs.dist := 7#64 } : State).encReady ∧
    (loaded whiteBlock 2#8).regs.pix = ({ loaded whiteBlock 2#8 with regs.dist := 7#64 } : State).regs.pix ∧
    (loaded whiteBlock 2#8).regs.quality = ({ loaded whiteBlock 2#8 with regs.dist := 7#64 } : State).regs.quality :=
  ⟨⟨by decide, by decide⟩, ⟨by decide, by decide⟩, rfl, rfl⟩

/-- Two states that differ in `PIX[3]` and `OUT`, which hold no value, with a transaction pending. -/
theorem witness_ContentsWithNoValueNeverMatter :
    (withMoves [.transaction 0x0000005C00000000#64]).sameVisible
      { withMoves [.transaction 0x0000005C00000000#64] with regs := { Regs.reset with pix := Regs.reset.pix.set 3 9#32, out := 5#64 } } := by
  refine ⟨⟨rfl, rfl, rfl, rfl, rfl, rfl, rfl, rfl, ?_, ?_⟩, rfl, rfl, rfl, rfl⟩
  · intro n h; revert h; revert n; decide
  · intro h; cases h

/-- A state that holds a result, and a transaction pending. -/
theorem witness_EveryStepKeepsTheResultMeaningful :
    ({ withMoves [.transaction 0x8000004C00000000#64] with regs := { Regs.reset with rv := true } } : State).resultInv ∧
    step { withMoves [.transaction 0x8000004C00000000#64] with regs := { Regs.reset with rv := true } } =
      .next { State.reset with regs := { Regs.reset with rv := true } } :=
  ⟨fun _ => ⟨Vector.replicate 16 ⟨0, 0, 0, 0⟩, 0#8, by decide +kernel, by decide +kernel, by decide +kernel⟩, rfl⟩

/-- The last count before the wrap. -/
theorem witness_EveryStepKeepsTheTotalsBounded :
    ({ withMoves [.transaction 0x8000004C00000000#64] with regs := { Regs.reset with blkCnt := 0xFFFFFFFE#32 } } : State).totalsInv ∧
    (0xFFFFFFFE#32 : Word) ≠ 0xFFFFFFFF#32 ∧
    step { withMoves [.transaction 0x8000004C00000000#64] with regs := { Regs.reset with blkCnt := 0xFFFFFFFE#32 } } =
      .next { State.reset with regs := { Regs.reset with blkCnt := 0xFFFFFFFE#32 } } :=
  ⟨Nat.zero_le _, by decide, rfl⟩

theorem witness_SortedPairsAreCanonical :
    (enc565 ⟨9, 5, 9, 255⟩).toNat ≤ (enc565 ⟨15, 7, 15, 0⟩).toNat ∧ (enc565 ⟨0, 255, 0, 255⟩).toNat < (enc565 ⟨8, 0, 0, 255⟩).toNat := by decide

/-- Each clause at its boundary. -/
theorem witness_ExtrapolatePushesApart :
    (7 * (3#8 : Chan).toNat ≤ 3 * (7#8 : Chan).toNat) ∧
    (3 * (7#8 : Chan).toNat ≤ 7 * (3#8 : Chan).toNat ∧ 7 * (3#8 : Chan).toNat - 3 * (7#8 : Chan).toNat < 1020) ∧
    (1020 ≤ 7 * (255#8 : Chan).toNat - 3 * (255#8 : Chan).toNat) ∧ ((255#8 : Chan).toNat ≤ (255#8 : Chan).toNat) ∧
    sameRgb ⟨1, 2, 3, 0⟩ ⟨1, 2, 3, 255⟩ = true := by decide

theorem witness_PairsStandInLoopOrder : gradient.toList.length = 16 ∧ 14 < 15 ∧ 15 < 16 := by decide

theorem witness_CandidatesAreNumbered :
    (0#8).toNat = 0 ∧ flat (Vector.replicate 16 ⟨1, 2, 3, 4⟩) = true ∧ (1#8).toNat = 1 ∧ flat gradient = false ∧ 2 ≤ (2#8).toNat ∧
    2 ≤ (255#8).toNat ∧ (14 : Fin 16) < 15 := by decide

theorem witness_EveryCandidateIsQuantizedAndOrdered : baseline gradient ∈ buildEndpoints gradient 2#8 := List.mem_cons_self

/-- A block that is flat but for its alpha, and a test that says flat, or does not. -/
theorem witness_FlatTestCannotBeObserved :
    (true = true → flat ((Vector.replicate 16 ⟨1, 2, 3, 4⟩).set 7 ⟨1, 2, 3, 5⟩) = true) ∧ (false = true → flat gradient = true) := by decide

theorem witness_AlphaNeverMatters :
    ∀ n : Fin 16, sameRgb (gradient.get n) ((gradient.set 15 ⟨240, 120, 15, 0⟩).get n) = true := by decide

theorem witness_NearestIsTheLowestMinimum :
    (2 : Fin 4).val < (nearest (buildTable ⟨0, 0, 0, 0⟩ ⟨248, 252, 248, 128⟩) ⟨100, 100, 100, 0⟩).2.toNat := by decide

theorem witness_ScoreIsBoundedAndOrderFree : (fourGroups ⟨0, 0, 0, 0⟩ ⟨1, 1, 1, 1⟩ ⟨2, 2, 2, 2⟩ ⟨3, 3, 3, 3⟩).toList.Perm
    (fourGroups ⟨3, 3, 3, 3⟩ ⟨2, 2, 2, 2⟩ ⟨1, 1, 1, 1⟩ ⟨0, 0, 0, 0⟩).toList := by decide

theorem witness_SelectIsTheFirstMinimum : [9, 4, 7, 4] ≠ ([] : List Nat) ∧ 0 < select [9, 4, 7, 4] ∧ [9, 4, 7, 4][0]? = some 9 := by decide

/-- A lopsided tree over the four keys and two sentinels, its leaves out of order. -/
theorem witness_EveryReductionTreeSelectsTheSame :
    ([9, 4, 7, 4] : List Nat) ≠ [] ∧ (∀ s ∈ [9, 4, 7, 4], s < 2 ^ 23) ∧ ([9, 4, 7, 4] : List Nat).length ≤ 6 ∧
    (KeyTree.node (.node (.leaf 4 3) (.leaf (2 ^ 23) 5)) (.node (.leaf 4 1) (.node (.node (.leaf (2 ^ 23) 4) (.leaf 9 0)) (.leaf 7 2)))).keys.Perm
      (paddedKeys [9, 4, 7, 4] 6) := by decide

theorem witness_EncodeBlockReturnsTheBestCandidate :
    (buildEndpoints twoTone 2#8)[0]? = some (baseline twoTone) ∧ 0 < (encodeBlock twoTone 2#8).win := ⟨rfl, by decide +kernel⟩

theorem witness_FlatBlockEncodesItsColour :
    ∀ n : Fin 16, sameRgb ((Vector.replicate 16 (⟨123, 45, 67, 255⟩ : Color)).get n) ⟨123, 45, 67, 0⟩ = true := by decide

theorem witness_HigherQualityNeverScoresWorse : (1#8).toNat ≤ (2#8).toNat ∧ (2#8).toNat ≤ (255#8).toNat := by decide

theorem witness_EncblkReturnsTheEncodedBlock : State.reset.regs.err = 0#5 := rfl

/-- An image of one colour. -/
def plainImage (w h : Nat) : Image := ⟨w, h, fun _ _ => ⟨0, 0, 0, 255⟩⟩

theorem witness_StreamHoldsEveryBlockInOrder : 1 < (plainImage 8 4).width / 4 ∧ 0 < (plainImage 8 4).height / 4 := by decide

theorem witness_HostSequenceEncodesTheImage :
    dimensionsValid (plainImage 8 4) = true ∧ dimensionsValid (plainImage 0 4) = true ∧ dimensionsValid (plainImage 8 6) = false := by decide

end Sys2Proof.Tests
end

section
/-! One step on a pending transaction word (00_scope R12). -/

namespace Sys2Proof.Machine

/-- A word that decodes is executed as the operation it spells. -/
theorem stepTransaction_of_decode_ok {tw : TW} {i : Instr} (h : decode tw = .ok i) (s : State) :
    stepTransaction tw s = exec i s := by rw [stepTransaction, h]

/-- With a transaction word pending first, the step is that transaction on the state with the move taken off. -/
theorem step_of_pending_transaction {s : State} {tw : TW} {rest : List HostMove}
    (h : s.pending = .transaction tw :: rest) : step s = stepTransaction tw { s with pending := rest } := by
  rw [step, takeMove_cons h]

/-- Settles O1: the step takes the pending word off, and the word decodes to the operation executed. -/
theorem stepRunsTheDecodedTransaction : Obligations.StepRunsTheDecodedTransaction := by
  intro s tw rest i hpending hdecode
  rw [step_of_pending_transaction hpending, stepTransaction_of_decode_ok hdecode]

end Sys2Proof.Machine
end

section
/-! One step on each kind of pending move: none, a reset, a word that spells no transaction (00_scope R12, 70 R265, R266). -/

namespace Sys2Proof.Machine

/-- A pending value that spells no transaction is refused by name (30_encoding R70, R75d). -/
theorem stepTransaction_of_decode_error {tw : TW} {e : Reject} (h : decode tw = .error e) (s : State) :
    stepTransaction tw s = .refused (.notATransaction e) := by rw [stepTransaction, h]

/-- With no move pending the core waits (70 R265, R283). -/
theorem step_of_pending_nil {s : State} (h : s.pending = []) : step s = .next s := by rw [step, takeMove_nil h]

/-- With a reset pending first, the step is that reset on the state with the move taken off (70 R265). -/
theorem step_of_pending_reset {s : State} {rest : List HostMove} (h : s.pending = .reset :: rest) :
    step s = .next { s with pending := rest }.resetCore := by rw [step, takeMove_cons h]

end Sys2Proof.Machine
end

section
/-! Two states that differ only in the bits of registers that hold no value answer every step alike (10_state R31, R38, R39):
each operation over the state keeps the relation, then each transaction, then a step. -/

namespace Sys2Proof.Machine

/-- States with related registers, each with the host's side of one of two related states, are related. -/
theorem State.sameVisible.of_regs {s s' t t' : State} (h : s.sameVisible s') (hregs : t.regs.sameVisible t'.regs)
    (ht : sameHost s t := by exact ⟨rfl, rfl, rfl, rfl⟩) (ht' : sameHost s' t' := by exact ⟨rfl, rfl, rfl, rfl⟩) :
    t.sameVisible t' := by
  obtain ⟨-, hp, hr, hd, hs⟩ := h
  obtain ⟨hp₁, hr₁, hd₁, hs₁⟩ := ht
  obtain ⟨hp₂, hr₂, hd₂, hs₂⟩ := ht'
  exact ⟨hregs, by rw [hp₁, hp₂, hp], by rw [hr₁, hr₂, hr], by rw [hd₁, hd₂, hd], by rw [hs₁, hs₂, hs]⟩

/-- While all sixteen valid bits are set, related register files hold the same pixels (10_state R22). -/
theorem Regs.sameVisible.pix_eq {r r' : Regs} (h : r.sameVisible r') (hfull : r.pixv = 0xFFFF#16) : r.pix = r'.pix := by
  obtain ⟨-, -, -, -, -, -, -, -, hpix, -⟩ := h
  have hvalid : ∀ n : Fin 16, pixValid r.pixv n = true := by rw [hfull]; decide
  exact Vector.ext fun n hn => hpix ⟨n, hn⟩ (hvalid ⟨n, hn⟩)

/-- What `cmd.enc` computes from related register files that are full is the same (10_state R38). -/
theorem Regs.sameVisible.encodeRegs_eq {r r' : Regs} (h : r.sameVisible r') (hfull : r.pixv = 0xFFFF#16) :
    encodeRegs r = encodeRegs r' := by
  obtain ⟨-, hq, -⟩ := id h
  rw [encodeRegs, encodeRegs, h.pix_eq hfull, hq]

section Operations

variable {s s' : State} (h : s.sameVisible s')
include h

theorem State.sameVisible.loadPixel (n : Fin 16) (v : Word) : (s.loadPixel n v).sameVisible (s'.loadPixel n v) := by
  obtain ⟨hv, hq, hw, hh, he, hrv, hb, hd, hpix, hres⟩ := h.1
  refine h.of_regs ⟨by simp [hv], hq, hw, hh, he, hrv, hb, hd, fun m hm => ?_, hres⟩
  rw [State.loadPixel_pix, State.loadPixel_pix]
  split
  · rfl
  · next hmn =>
    have hold : pixValid s.regs.pixv m = true := by simpa [pixValid_pixvWith, Ne.symm hmn] using hm
    exact hpix m hold

theorem State.sameVisible.setQuality (q : BitVec 8) : (s.setQuality q).sameVisible (s'.setQuality q) := by
  obtain ⟨hv, -, hw, hh, he, hrv, hb, hd, hpix, hres⟩ := h.1
  exact h.of_regs ⟨hv, rfl, hw, hh, he, hrv, hb, hd, hpix, hres⟩

theorem State.sameVisible.setImgW (v : Word) : (s.setImgW v).sameVisible (s'.setImgW v) := by
  obtain ⟨hv, hq, -, hh, he, hrv, hb, hd, hpix, hres⟩ := h.1
  exact h.of_regs ⟨hv, hq, rfl, hh, he, hrv, hb, hd, hpix, hres⟩

theorem State.sameVisible.setImgH (v : Word) : (s.setImgH v).sameVisible (s'.setImgH v) := by
  obtain ⟨hv, hq, hw, -, he, hrv, hb, hd, hpix, hres⟩ := h.1
  exact h.of_regs ⟨hv, hq, hw, rfl, he, hrv, hb, hd, hpix, hres⟩

theorem State.sameVisible.raise (f : CoreFault) : (s.raise f).sameVisible (s'.raise f) := by
  obtain ⟨hv, hq, hw, hh, he, hrv, hb, hd, hpix, hres⟩ := h.1
  exact h.of_regs ⟨hv, hq, hw, hh, by simp [he], hrv, hb, hd, hpix, hres⟩

theorem State.sameVisible.clearErr : s.clearErr.sameVisible s'.clearErr := by
  obtain ⟨hv, hq, hw, hh, -, hrv, hb, hd, hpix, hres⟩ := h.1
  exact h.of_regs ⟨hv, hq, hw, hh, rfl, hrv, hb, hd, hpix, hres⟩

/-- After `PIXV <- 0` no pixel holds a value, so nothing is left to agree on. -/
theorem State.sameVisible.clearPixv : s.clearPixv.sameVisible s'.clearPixv := by
  obtain ⟨-, hq, hw, hh, he, hrv, hb, hd, -, hres⟩ := h.1
  have hnone : ∀ n : Fin 16, pixValid 0#16 n = true → s.regs.pix.get n = s'.regs.pix.get n := by simp [pixValid]
  exact h.of_regs ⟨rfl, hq, hw, hh, he, hrv, hb, hd, hnone, hres⟩

/-- After `RV <- 0` no result register holds a value, so nothing is left to agree on. -/
theorem State.sameVisible.dropResult : s.dropResult.sameVisible s'.dropResult := by
  obtain ⟨hv, hq, hw, hh, he, -, hb, hd, hpix, -⟩ := h.1
  exact h.of_regs ⟨hv, hq, hw, hh, he, rfl, hb, hd, hpix, nofun⟩

theorem State.sameVisible.commitResult (blk : BitVec 64) (sc win : Nat) :
    (s.commitResult blk sc win).sameVisible (s'.commitResult blk sc win) := by
  obtain ⟨hv, hq, hw, hh, he, -, hb, hd, hpix, -⟩ := h.1
  exact h.of_regs ⟨hv, hq, hw, hh, he, rfl, by simp [hb], by simp [hd], hpix, fun _ => ⟨rfl, rfl, rfl⟩⟩

theorem State.sameVisible.clearTotals : s.clearTotals.sameVisible s'.clearTotals := by
  obtain ⟨hv, hq, hw, hh, he, hrv, -, -, hpix, hres⟩ := h.1
  exact h.of_regs ⟨hv, hq, hw, hh, he, hrv, rfl, rfl, hpix, hres⟩

/-- The encode of a full block uses no pixel that holds no value (10_state R38). -/
theorem State.sameVisible.encodePixels (hfull : s.regs.pixv = 0xFFFF#16) : s.encodePixels.sameVisible s'.encodePixels := by
  rw [State.encodePixels, State.encodePixels, h.1.encodeRegs_eq hfull]
  exact h.commitResult _ _ _

theorem State.sameVisible.reply {v v' : Word} (hvv : v = v') : (s.reply v).sameVisible (s'.reply v') := by
  obtain ⟨hregs, hp, hr, hd, hs⟩ := h
  exact ⟨hregs, hp, by simp [hr, hvv], hd, hs⟩

/-- Equal counters draw the same free value: the model's choice (log entry 3). -/
theorem State.sameVisible.replyUnspecified : s.replyUnspecified.sameVisible s'.replyUnspecified := by
  obtain ⟨hregs, hp, hr, hd, hs⟩ := h
  exact ⟨hregs, hp, by simp [hr, hd], by simp [hd], hs⟩

/-- A guarded reply shows the register only while it holds a value (10_state R38). -/
theorem State.sameVisible.replyIf {b b' : Bool} {v v' : Word} (hb : b = b') (hvv : b = true → v = v') :
    (s.replyIf b v).sameVisible (s'.replyIf b' v') := by
  subst hb
  cases b with
  | true => exact h.reply (hvv rfl)
  | false => exact h.replyUnspecified

/-- Equal reset counters leave the same free contents: the model's choice (log entry 5). -/
theorem State.sameVisible.resetCore : s.resetCore.sameVisible s'.resetCore := by
  obtain ⟨-, hp, hr, hd, hs⟩ := h
  rw [State.sameVisible, State.resetCore_regs, State.resetCore_regs, hs]
  exact ⟨⟨rfl, rfl, rfl, rfl, rfl, rfl, rfl, rfl, fun _ _ => rfl, fun _ => ⟨rfl, rfl, rfl⟩⟩, hp, hr, hd, by simp [hs]⟩

/-- Dropping the move just taken from both states keeps them related. -/
theorem State.sameVisible.withPending (rest : List HostMove) :
    State.sameVisible { s with pending := rest } { s' with pending := rest } := by
  obtain ⟨hregs, -, hr, hd, hs⟩ := h
  exact ⟨hregs, rfl, hr, hd, hs⟩

/-- Both states take the same of the three paths of `cmd.enc` (40 R106). -/
theorem execCmdEnc_sameVisible : ∃ t t', execCmdEnc s = .next t ∧ execCmdEnc s' = .next t' ∧ t.sameVisible t' := by
  obtain ⟨hv, -, -, -, he, -⟩ := h.1
  rcases execCmdEnc_cases s with ⟨herr, hs⟩ | ⟨herr, hpart, hs⟩ | ⟨herr, hfull, hs⟩
  · exact ⟨_, _, hs, execCmdEnc_refused (he ▸ herr), (h.raise .refused).dropResult⟩
  · exact ⟨_, _, hs, execCmdEnc_incomplete (he ▸ herr) (hv ▸ hpart), (h.raise .incompleteBlock).dropResult⟩
  · exact ⟨_, _, hs, execCmdEnc_ready (he ▸ herr) (hv ▸ hfull), h.encodePixels hfull⟩

/-- Both states take the same of the three paths of `cmd.frame` (40 R107). -/
theorem execCmdFrame_sameVisible : ∃ t t', execCmdFrame s = .next t ∧ execCmdFrame s' = .next t' ∧ t.sameVisible t' := by
  obtain ⟨-, -, hw, hh, he, -⟩ := h.1
  rw [execCmdFrame, execCmdFrame, ← he, ← hw, ← hh]
  split
  · exact ⟨_, _, rfl, rfl, h.raise .refused⟩
  · split
    · exact ⟨_, _, rfl, rfl, h.clearTotals⟩
    · exact ⟨_, _, rfl, rfl, h.raise .invalidDimensions⟩

/-- Every operation answers two related states alike. -/
theorem exec_sameVisible (i : Instr) : ∃ t t', exec i s = .next t ∧ exec i s' = .next t' ∧ t.sameVisible t' := by
  obtain ⟨hv, hq, hw, hh, he, hrv, hb, hd, hpix, hres⟩ := h.1
  cases i with
  | wpix n v => exact ⟨_, _, rfl, rfl, h.loadPixel n v⟩
  | wqual v => exact ⟨_, _, rfl, rfl, h.setQuality _⟩
  | wimgw v => exact ⟨_, _, rfl, rfl, h.setImgW v⟩
  | wimgh v => exact ⟨_, _, rfl, rfl, h.setImgH v⟩
  | cmdNop => exact ⟨_, _, rfl, rfl, h⟩
  | cmdEnc => exact execCmdEnc_sameVisible h
  | cmdFrame => exact execCmdFrame_sameVisible h
  | cmdClrerr => exact ⟨_, _, rfl, rfl, h.clearErr⟩
  | cmdClrpix => exact ⟨_, _, rfl, rfl, h.clearPixv⟩
  | cmdSrst => exact ⟨_, _, rfl, rfl, h.resetCore⟩
  | rpix n => exact ⟨_, _, rfl, rfl, h.replyIf (by rw [hv]) (hpix n)⟩
  | rqual => exact ⟨_, _, rfl, rfl, h.reply (by rw [hq])⟩
  | rimgw => exact ⟨_, _, rfl, rfl, h.reply hw⟩
  | rimgh => exact ⟨_, _, rfl, rfl, h.reply hh⟩
  | rstatus => exact ⟨_, _, rfl, rfl, h.reply (by rw [statusWord, statusWord, he, hv, hrv])⟩
  | rerr => exact ⟨_, _, rfl, rfl, h.reply (by rw [he])⟩
  | rpixv => exact ⟨_, _, rfl, rfl, h.reply (by rw [hv])⟩
  | routlo => exact ⟨_, _, rfl, rfl, h.replyIf hrv fun hr => congrArg lowHalf (hres hr).1⟩
  | routhi => exact ⟨_, _, rfl, rfl, h.replyIf hrv fun hr => congrArg highHalf (hres hr).1⟩
  | rscore => exact ⟨_, _, rfl, rfl, h.replyIf hrv fun hr => let ⟨_, hscore, _⟩ := hres hr; hscore⟩
  | rwinner => exact ⟨_, _, rfl, rfl, h.replyIf hrv fun hr => let ⟨_, _, hwinner⟩ := hres hr; congrArg zext32 hwinner⟩
  | rblkcnt => exact ⟨_, _, rfl, rfl, h.reply hb⟩
  | rdistlo => exact ⟨_, _, rfl, rfl, h.reply (by rw [hd])⟩
  | rdisthi => exact ⟨_, _, rfl, rfl, h.reply (by rw [hd])⟩
  | illCmd d => exact ⟨_, _, rfl, rfl, h.raise .illegalCommand⟩
  | badW a d => exact ⟨_, _, rfl, rfl, h.raise .badAccess⟩
  | badR a => exact ⟨_, _, rfl, rfl, (h.raise .badAccess).reply rfl⟩

end Operations

/-- Settles O32: both states have the same move pending, and each of the three kinds of move keeps them related. -/
theorem contentsWithNoValueNeverMatter : Obligations.ContentsWithNoValueNeverMatter := by
  intro s s' h
  obtain ⟨-, hpending, -⟩ := id h
  rcases hp : s.pending with _ | ⟨tw | _, rest⟩
  · exact .inl ⟨s, s', step_of_pending_nil hp, step_of_pending_nil (hpending ▸ hp), h⟩
  · rw [step_of_pending_transaction hp, step_of_pending_transaction (hpending ▸ hp)]
    cases hdecode : decode tw with
    | error e =>
      exact .inr ⟨_, stepTransaction_of_decode_error hdecode _, stepTransaction_of_decode_error hdecode _⟩
    | ok i =>
      rw [stepTransaction_of_decode_ok hdecode, stepTransaction_of_decode_ok hdecode]
      exact .inl (exec_sameVisible (h.withPending rest) i)
  · exact .inl ⟨_, _, step_of_pending_reset hp, step_of_pending_reset (hpending ▸ hp), (h.withPending rest).resetCore⟩

end Sys2Proof.Machine
end

section
/-! The bounds of what `encode_block` answers: a score is at most `maxScore` (43 R176), a candidate number at most 240 (10_state R34). -/

namespace Sys2Proof.Machine

theorem chanDiff_le (x y : Chan) : chanDiff x y ≤ 255 := by
  have hx := x.isLt
  have hy := y.isLt
  unfold chanDiff
  omega

/-- The largest distance is three times 255 squared (43 R170). -/
theorem distance_le (a b : Color) : distance a b ≤ 195075 := by
  have hsq : ∀ x y : Chan, chanDiff x y ^ 2 ≤ 255 ^ 2 := fun x y => Nat.pow_le_pow_left (chanDiff_le x y) 2
  calc distance a b ≤ 255 ^ 2 + 255 ^ 2 + 255 ^ 2 := Nat.add_le_add (Nat.add_le_add (hsq ..) (hsq ..)) (hsq ..)
    _ = 195075 := by norm_num

@[simp] theorem nearestStep_fst (best : Nearest) (d : Nat) (t : BitVec 2) : (nearestStep best d t).1 = min best.1 d := by
  unfold nearestStep
  split
  · next hlt => exact (Nat.min_eq_right hlt.le).symm
  · next hle => exact (Nat.min_eq_left (Nat.le_of_not_lt hle)).symm

/-- The scan of `nearest` ends with the least of the four distances (43 R171). -/
theorem nearest_fst (T : Table) (c : Color) :
    (nearest T c).1 = min (min (min (distance c T[0]) (distance c T[1])) (distance c T[2])) (distance c T[3]) := by
  simp [nearest]

theorem le_of_mem_minima {T : Table} {P : Block} {m : Nat} (h : m ∈ minima T P) : m ≤ 195075 := by
  obtain ⟨c, -, rfl⟩ := List.mem_map.mp h
  have := distance_le c T[0]
  rw [nearest_fst]
  omega

/-- A list's `maxOf` is bounded by every bound of its elements. -/
theorem maxOf_le {ms : List Nat} {b : Nat} (h : ∀ m ∈ ms, m ≤ b) : maxOf ms ≤ b :=
  List.foldlRecOn (motive := (· ≤ b)) ms max (Nat.zero_le b) fun _ hacc m hm => max_le hacc (h m hm)

/-- No table scores more than `maxScore` on any block (43 R176). -/
theorem score_le_maxScore (T : Table) (P : Block) : score T P ≤ maxScore := by
  have hsum : (minima T P).sum ≤ 16 * 195075 := by
    simpa using List.sum_le_card_nsmul (minima T P) 195075 fun _ => le_of_mem_minima
  have hmax : maxOf (minima T P) ≤ 195075 := maxOf_le fun _ => le_of_mem_minima
  simp only [score, Config.penaltyW, maxScore]
  omega

/-- The winner of a scan is the winner so far or the number of a candidate scanned (45 R196). -/
theorem selectFrom_lt {best win k : Nat} (S : List Nat) (h : win < k) : selectFrom best win k S < k + S.length := by
  induction S generalizing best win k with
  | nil => exact h
  | cons s rest ih =>
    rw [selectFrom, List.length_cons, Nat.add_comm rest.length, ← Nat.add_assoc]
    split
    · exact ih (Nat.lt_succ_self k)
    · exact ih (Nat.lt_succ_of_lt h)

/-- The selected number is the number of a candidate (45 R196). -/
theorem select_lt_length {S : List Nat} (h : S ≠ []) : select S < S.length := by
  cases S with
  | nil => exact absurd rfl h
  | cons s rest => simpa [select, Nat.add_comm] using selectFrom_lt (best := s) rest Nat.zero_lt_one

/-- There are as many pairs as unordered pairs of positions (41 R144). -/
theorem length_pairsOf {α : Type} (l : List α) : (pairsOf l).length = l.length.choose 2 := by
  induction l with
  | nil => rfl
  | cons x rest ih =>
    rw [pairsOf_cons, List.length_append, List.length_map, ih, List.length_cons, Nat.choose_succ_succ, Nat.choose_one_right]

theorem length_pairsOf_block (P : Block) : (pairsOf P.toList).length = Config.nPair := by
  rw [length_pairsOf, Vector.length_toList]
  rfl

@[simp] theorem length_plainPairs (P : Block) : (plainPairs P).length = Config.nPair := by
  rw [plainPairs, List.length_map, length_pairsOf_block]

@[simp] theorem length_extrapolatedPairs (P : Block) : (extrapolatedPairs P).length = Config.nPair := by
  rw [extrapolatedPairs, List.length_map, length_pairsOf_block]

/-- At most `N_CAND_MAX` candidates at any quality (41 R142). -/
theorem length_buildEndpoints_le (P : Block) (q : BitVec 8) : (buildEndpoints P q).length ≤ Config.nCandMax := by
  have hpairs : (enabledPairs P (qEff q)).length ≤ Config.nPair + Config.nPair := by
    rw [enabledPairs, List.length_append]
    refine Nat.add_le_add ?_ ?_ <;> split <;> simp
  rw [buildEndpoints, List.length_cons]
  split
  · decide
  · exact Nat.succ_le_succ hpairs

theorem scoresOf_buildEndpoints_ne_nil (P : Block) (q : BitVec 8) : scoresOf (buildEndpoints P q) P ≠ [] := by
  simp [scoresOf, buildEndpoints]

/-- The score answered is one of the candidates' scores (45 R200). -/
theorem encodeBlock_sc_mem (P : Block) (q : BitVec 8) : (encodeBlock P q).sc ∈ scoresOf (buildEndpoints P q) P := by
  have hlt := select_lt_length (scoresOf_buildEndpoints_ne_nil P q)
  rw [encodeBlock, encodeFrom, encodedAt, List.getD_eq_getElem _ _ hlt]
  exact List.getElem_mem hlt

/-- The score answered is at most `maxScore` (43 R176). -/
theorem encodeBlock_sc_le_maxScore (P : Block) (q : BitVec 8) : (encodeBlock P q).sc ≤ maxScore := by
  obtain ⟨c, -, hsc⟩ := List.mem_map.mp (encodeBlock_sc_mem P q)
  exact hsc ▸ score_le_maxScore _ P

/-- The winner answered is a candidate's number, so at most 240 (10_state R34). -/
theorem encodeBlock_win_lt_nCandMax (P : Block) (q : BitVec 8) : (encodeBlock P q).win < Config.nCandMax := by
  calc (encodeBlock P q).win < (scoresOf (buildEndpoints P q) P).length :=
        select_lt_length (scoresOf_buildEndpoints_ne_nil P q)
    _ = (buildEndpoints P q).length := scoresOf_length ..
    _ ≤ Config.nCandMax := length_buildEndpoints_le P q

/-- `SCORE` holds the whole score (10_state R33, log entry 17). -/
theorem toNat_score_encodePixels (s : State) : s.encodePixels.regs.score.toNat = (encodeRegs s.regs).sc := by
  have hle : (encodeRegs s.regs).sc ≤ 6242400 := encodeBlock_sc_le_maxScore ..
  exact Nat.mod_eq_of_lt (by omega)

/-- `WINNER` holds the whole candidate number (10_state R34, log entry 17). -/
theorem toNat_winner_encodePixels (s : State) : s.encodePixels.regs.winner.toNat = (encodeRegs s.regs).win := by
  have hlt : (encodeRegs s.regs).win < 241 := encodeBlock_win_lt_nCandMax ..
  exact Nat.mod_eq_of_lt (by omega)

end Sys2Proof.Machine
end

section
/-! What one operation can do to the state, and the frame facts that follow (10_state R21, R30, R31). -/

namespace Sys2Proof.Machine

/-- Operation `i` takes `s` to `t`: every path of 40_host_commands, with the guard of the paths that have one. Which
value a read replies is left open. -/
inductive OpEffect (s : State) : Instr → State → Prop
  | pixelLoaded (n : Fin 16) (v : Word) : OpEffect s (.wpix n v) (s.loadPixel n v)
  | qualitySet (v : Word) : OpEffect s (.wqual v) (s.setQuality (qualityOfData v))
  | imgWSet (v : Word) : OpEffect s (.wimgw v) (s.setImgW v)
  | imgHSet (v : Word) : OpEffect s (.wimgh v) (s.setImgH v)
  | nothing : OpEffect s .cmdNop s
  | encFaulted (f : CoreFault) (h : ¬ s.encReady) : OpEffect s .cmdEnc (s.raise f).dropResult
  | encoded (h : s.encReady) : OpEffect s .cmdEnc s.encodePixels
  | frameFaulted (f : CoreFault) (h : ¬ s.frameReady) : OpEffect s .cmdFrame (s.raise f)
  | totalsCleared (h : s.frameReady) : OpEffect s .cmdFrame s.clearTotals
  | faultsCleared : OpEffect s .cmdClrerr s.clearErr
  | pixelsCleared : OpEffect s .cmdClrpix s.clearPixv
  | coreReset : OpEffect s .cmdSrst s.resetCore
  | replied {i : Instr} (valid : Bool) (v : Word) (h : i.isWrite = false) : OpEffect s i (s.replyIf valid v)
  | commandFaulted (d : Word) : OpEffect s (.illCmd d) (s.raise .illegalCommand)
  | writeFaulted (a : Addr) (d : Word) : OpEffect s (.badW a d) (s.raise .badAccess)
  | readFaulted (a : Addr) : OpEffect s (.badR a) ((s.raise .badAccess).reply 0#32)

/-- The word of a register read is a read transaction (30_encoding R70). -/
@[simp] theorem twWrite_readTW (r : RegName) : twWrite (readTW r) = false := twWrite_packTW ..

theorem opEffect_of_execCmdEnc {s t : State} (h : execCmdEnc s = .next t) : OpEffect s .cmdEnc t := by
  rcases execCmdEnc_cases s with ⟨herr, hs⟩ | ⟨-, hpart, hs⟩ | ⟨herr, hfull, hs⟩ <;> rw [hs] at h <;> cases h
  · exact .encFaulted _ fun ⟨hzero, _⟩ => herr hzero
  · exact .encFaulted _ fun ⟨_, hfull⟩ => hpart hfull
  · exact .encoded ⟨herr, hfull⟩

theorem opEffect_of_execCmdFrame {s t : State} (h : execCmdFrame s = .next t) : OpEffect s .cmdFrame t := by
  rcases execCmdFrame_cases s with ⟨herr, hs⟩ | ⟨-, hdim, hs⟩ | ⟨herr, hdim, hs⟩ <;> rw [hs] at h <;> cases h
  · exact .frameFaulted _ fun ⟨hzero, _⟩ => herr hzero
  · exact .frameFaulted _ fun ⟨_, hmul⟩ => hdim hmul
  · exact .totalsCleared ⟨herr, hdim⟩

/-- Every operation has one of the effects listed. -/
theorem opEffect_of_exec {i : Instr} {s t : State} (h : exec i s = .next t) : OpEffect s i t := by
  cases i with
  | cmdEnc => exact opEffect_of_execCmdEnc h
  | cmdFrame => exact opEffect_of_execCmdFrame h
  | wpix n v => cases h; exact .pixelLoaded n v
  | wqual v => cases h; exact .qualitySet v
  | wimgw v => cases h; exact .imgWSet v
  | wimgh v => cases h; exact .imgHSet v
  | cmdNop => cases h; exact .nothing
  | cmdClrerr => cases h; exact .faultsCleared
  | cmdClrpix => cases h; exact .pixelsCleared
  | cmdSrst => cases h; exact .coreReset
  | illCmd d => cases h; exact .commandFaulted d
  | badW a d => cases h; exact .writeFaulted a d
  | badR a => cases h; exact .readFaulted a
  | rpix n => cases h; exact .replied _ _ (twWrite_readTW _)
  | routlo | routhi | rscore | rwinner => cases h; exact .replied _ _ (twWrite_readTW _)
  | rqual | rimgw | rimgh | rstatus | rerr | rpixv | rblkcnt | rdistlo | rdisthi =>
    cases h; exact .replied true _ (twWrite_readTW _)

section Frame

variable {s t : State} {i : Instr} (h : OpEffect s i t)
include h

/-- Only `wpix` and `cmd.srst` write a pixel register (10_state R21). -/
theorem OpEffect.pix_eq (hwpix : ∀ n v, i ≠ .wpix n v) (hsrst : i ≠ .cmdSrst) : t.regs.pix = s.regs.pix := by
  cases h with
  | pixelLoaded n v => exact absurd rfl (hwpix n v)
  | coreReset => exact absurd rfl hsrst
  | replied => rw [State.replyIf_regs]
  | _ => rfl

/-- Only `cmd.enc` and `cmd.srst` write `RV` or a result register (10_state R31, R32). -/
theorem OpEffect.result_eq (henc : i ≠ .cmdEnc) (hsrst : i ≠ .cmdSrst) :
    t.regs.rv = s.regs.rv ∧ t.regs.out = s.regs.out ∧ t.regs.score = s.regs.score ∧ t.regs.winner = s.regs.winner := by
  cases h with
  | encFaulted | encoded => exact absurd rfl henc
  | coreReset => exact absurd rfl hsrst
  | replied => simp
  | _ => exact ⟨rfl, rfl, rfl, rfl⟩

/-- Only `cmd.clrerr` and `cmd.srst` clear a bit of `ERR` (10_state R30). -/
theorem OpEffect.err_sticky {k : Nat} (hkeep : clearsFaults i = false) (hset : s.regs.err.getLsbD k = true) :
    t.regs.err.getLsbD k = true := by
  have hor : ∀ f, (errWith s.regs.err f).getLsbD k = true := fun f => by rw [errWith_getLsbD, hset, Bool.true_or]
  cases h with
  | faultsCleared | coreReset => cases hkeep
  | encFaulted | frameFaulted | commandFaulted | writeFaulted | readFaulted => exact hor _
  | replied => rwa [State.replyIf_regs]
  | _ => exact hset

end Frame

/-- Settles O25, by the list of effects. -/
theorem onlyWpixAndResetChangePixels : Obligations.OnlyWpixAndResetChangePixels :=
  fun _ _ _ h => (opEffect_of_exec h).pix_eq

/-- Settles O26: every other effect leaves `ERR` or sets a bit by OR. -/
theorem faultBitsAreSticky : Obligations.FaultBitsAreSticky :=
  fun _ _ _ _ h => (opEffect_of_exec h).err_sticky

/-- Settles O28, by the list of effects. -/
theorem onlyEncAndResetChangeTheResult : Obligations.OnlyEncAndResetChangeTheResult :=
  fun _ _ _ h => (opEffect_of_exec h).result_eq

end Sys2Proof.Machine
end

section
/-! The invariants of the result registers and of the totals, and what a reset leaves (10_state R31 to R36, R39). -/

namespace Sys2Proof.Machine

theorem State.resetCore_resultInv (s : State) : s.resetCore.resultInv := nofun

/-- A successful `cmd.enc` leaves the result of the encode it performed, whole (10_state R32 to R34). -/
theorem State.encodePixels_resultInv (s : State) : s.encodePixels.resultInv := fun _ =>
  ⟨blockOf s.regs.pix, s.regs.quality, rfl, toNat_score_encodePixels s, toNat_winner_encodePixels s⟩

/-- Every operation keeps the result registers meaningful: it leaves them, drops `RV`, or commits an encode. -/
theorem OpEffect.keeps_resultInv {s t : State} {i : Instr} (h : OpEffect s i t) (hinv : s.resultInv) : t.resultInv := by
  cases h with
  | encFaulted => exact nofun
  | encoded => exact s.encodePixels_resultInv
  | coreReset => exact s.resetCore_resultInv
  | replied => rwa [State.resultInv, State.replyIf_regs]
  | _ => exact hinv

/-- Settles O34: a step waits, resets, or performs one operation. -/
theorem everyStepKeepsTheResultMeaningful : Obligations.EveryStepKeepsTheResultMeaningful := by
  intro s t hinv hstep
  rcases step_cases hstep with ⟨-, rfl⟩ | ⟨rest, -, rfl⟩ | ⟨tw, rest, i, -, -, hexec⟩
  · exact hinv
  · exact State.resetCore_resultInv _
  · exact (opEffect_of_exec hexec).keeps_resultInv hinv

theorem State.resetCore_totalsInv (s : State) : s.resetCore.totalsInv := Nat.zero_le _

/-- The invariant puts `DIST` below 2^55: `BLK_CNT` is below 2^32 and a score below 2^23 (10_state R36). -/
theorem State.totalsInv.dist_lt {s : State} (hinv : s.totalsInv) : s.regs.dist.toNat < 2 ^ 55 := by
  have hcnt := s.regs.blkCnt.isLt
  simp only [State.totalsInv, maxScore] at hinv
  omega

/-- A successful `cmd.enc` adds at most one largest score to `DIST` and one to `BLK_CNT`, and neither wraps (10_state R35, R36). -/
theorem State.totalsInv.encodePixels {s : State} (hinv : s.totalsInv) (hcnt : s.regs.blkCnt ≠ 0xFFFFFFFF#32) :
    s.encodePixels.totalsInv := by
  have hsc : (encodeRegs s.regs).sc ≤ maxScore := encodeBlock_sc_le_maxScore ..
  have hdist := hinv.dist_lt
  change (s.regs.dist + BitVec.ofNat 64 (encodeRegs s.regs).sc).toNat ≤ (s.regs.blkCnt + 1#32).toNat * maxScore
  simp only [State.totalsInv, maxScore] at *
  have hcount : (s.regs.blkCnt + 1#32).toNat = s.regs.blkCnt.toNat + 1 := by bv_omega
  have htotal : (s.regs.dist + BitVec.ofNat 64 (encodeRegs s.regs).sc).toNat = s.regs.dist.toNat + (encodeRegs s.regs).sc := by
    rw [BitVec.toNat_add, BitVec.toNat_ofNat]
    omega
  omega

/-- Every operation keeps the totals bounded while `BLK_CNT` has not reached its last value. -/
theorem OpEffect.keeps_totalsInv {s t : State} {i : Instr} (h : OpEffect s i t) (hinv : s.totalsInv)
    (hcnt : s.regs.blkCnt ≠ 0xFFFFFFFF#32) : t.totalsInv := by
  cases h with
  | encoded => exact hinv.encodePixels hcnt
  | totalsCleared | coreReset => exact Nat.zero_le _
  | replied => rwa [State.totalsInv, State.replyIf_regs]
  | _ => exact hinv

/-- Settles O35: a step waits, resets, or performs one operation. -/
theorem everyStepKeepsTheTotalsBounded : Obligations.EveryStepKeepsTheTotalsBounded := by
  refine ⟨fun s t hinv hcnt hstep => ?_, fun s => State.totalsInv.dist_lt⟩
  rcases step_cases hstep with ⟨-, rfl⟩ | ⟨rest, -, rfl⟩ | ⟨tw, rest, i, -, -, hexec⟩
  · exact hinv
  · exact State.resetCore_totalsInv _
  · exact (opEffect_of_exec hexec).keeps_totalsInv hinv hcnt

/-- Settles O33: `RV = 0` and `DIST = 0` at reset (10_state R39). -/
theorem invariantsHoldAtReset : Obligations.InvariantsHoldAtReset := ⟨nofun, Nat.zero_le _⟩

theorem Regs.afterReset_resetValues (k : Nat) : (Regs.afterReset k).resetValues :=
  ⟨rfl, rfl, rfl, rfl, rfl, rfl, rfl, rfl⟩

/-- Settles O10: the reset move and `cmd.srst` both leave `Regs.afterReset`. -/
theorem resetLeavesTheListedValues : Obligations.ResetLeavesTheListedValues :=
  ⟨⟨rfl, rfl, rfl, rfl, rfl, rfl, rfl, rfl⟩,
    fun _ _ hpending => ⟨_, step_of_pending_reset hpending, Regs.afterReset_resetValues _⟩,
    fun _ => ⟨_, rfl, Regs.afterReset_resetValues _⟩⟩

/-- Settles O31: the success path commits `encodeRegs`, which reads `PIX` and `QUALITY` only. -/
theorem encDependsOnPixelsAndQualityAlone : Obligations.EncDependsOnPixelsAndQualityAlone := by
  rintro s s' ⟨herr, hfull⟩ ⟨herr', hfull'⟩ hpix hquality
  have hsame : encodeRegs s.regs = encodeRegs s'.regs := by rw [encodeRegs, encodeRegs, hpix, hquality]
  refine ⟨_, _, execCmdEnc_ready herr hfull, execCmdEnc_ready herr' hfull', ?_⟩
  simp [State.encodePixels, hsame]

end Sys2Proof.Machine
end

section
/-! Decoding the word of a well-formed operation gives the operation back, and so stepping through encoded operations performs them
(30_encoding R70 to R75; 10_state R25, 20_memory R59). -/

namespace Sys2Proof

theorem decode_writeTW (r : RegName) (d : Word) : decode (writeTW r d) = .ok (decodeWrite r.offset d) := decode_write _ _

theorem decode_readTW (r : RegName) : decode (readTW r) = .ok (decodeRead r.offset) := decode_read _

/-- Data above 5 is no command (40 R111). -/
theorem decodeCommand_of_illegal {d : Word} (h : illegalCommandData d = true) : decodeCommand d = .illCmd d := by
  have hd : 5 < d.toNat := by simpa [illegalCommandData, BitVec.lt_def] using h
  have hne : ∀ k : Word, k.toNat ≤ 5 → d ≠ k := by rintro k hk rfl; omega
  simp [decodeCommand, hne]

/-- A write to the address of a read-only register, or of none, is a bad access (40 R125). -/
theorem decodeWrite_of_badWriteAddr {a : Addr} (h : badWriteAddr a = true) (d : Word) : decodeWrite a d = .badW a d := by
  unfold decodeWrite
  cases hreg : regAt a with
  | none => rfl
  | some r =>
    have hpix : ∀ n, badWriteAddr (RegName.pix n).offset = false := by decide
    have hbad : badWriteAddr r.offset = true := by rwa [offset_of_regAt hreg]
    cases r with
    | pix n => exact absurd hbad (Bool.eq_false_iff.mp (hpix n))
    | quality | imgW | imgH | cmd => exact absurd hbad (by decide)
    | _ => rfl

/-- A read at the address of `CMD`, or of no register, is a bad access (40 R126). -/
theorem decodeRead_of_badReadAddr {a : Addr} (h : badReadAddr a = true) : decodeRead a = .badR a := by
  unfold decodeRead
  cases hreg : regAt a with
  | none => rfl
  | some r =>
    have hpix : ∀ n, badReadAddr (RegName.pix n).offset = false := by decide
    have hbad : badReadAddr r.offset = true := by rwa [offset_of_regAt hreg]
    cases r with
    | cmd => rfl
    | pix n => exact absurd hbad (Bool.eq_false_iff.mp (hpix n))
    | _ => exact absurd hbad (by decide)

/-- The decoder undoes the encoder on every well-formed operation (30_encoding R70 to R75). -/
theorem decode_encode {i : Instr} (h : i.wellFormed = true) : decode (encode i) = .ok i := by
  cases i with
  | illCmd d => rw [encode, decode_writeTW, decodeWrite, regAt_offset]; exact congrArg _ (decodeCommand_of_illegal h)
  | badW a d => rw [encode, decode_write, decodeWrite_of_badWriteAddr h]
  | badR a => rw [encode, decode_read, decodeRead_of_badReadAddr h]
  | wpix | wqual | wimgw | wimgh => rw [encode, decode_writeTW, decodeWrite, regAt_offset]
  | cmdNop | cmdEnc | cmdFrame | cmdClrerr | cmdClrpix | cmdSrst =>
    rw [encode, decode_writeTW, decodeWrite, regAt_offset]; rfl
  | _ => rw [encode, decode_readTW, decodeRead, regAt_offset]

end Sys2Proof

namespace Sys2Proof.Machine

/-- A step on the word of a well-formed operation performs that operation (00_scope R12). -/
theorem step_of_pending_encode {s : State} {i : Instr} {rest : List HostMove} (hwf : i.wellFormed = true)
    (h : s.pending = .transaction (encode i) :: rest) : step s = exec i { s with pending := rest } := by
  rw [step_of_pending_transaction h, stepTransaction_of_decode_ok (decode_encode hwf)]

/-- One step and `k` more are the step and then `k` steps from where it leads. -/
theorem run_core_succ (k : Nat) (s : State) : Host.Core.run core (k + 1) s = thenDo (step s) (Host.Core.run core k) := by
  simp only [Host.Core.run]
  change _ = thenDo (core.step s) _
  cases core.step s <;> rfl

theorem State.replyIf_withPending (s : State) (p : List HostMove) (valid : Bool) (v : Word) :
    ({ s with pending := p } : State).replyIf valid v = { s.replyIf valid v with pending := p } := by
  cases valid <;> rfl

/-- No operation looks at the moves still pending or changes them (10_state R25, log entry 1). -/
theorem exec_withPending (i : Instr) (s : State) (p : List HostMove) :
    exec i { s with pending := p } = thenDo (exec i s) fun t => .next { t with pending := p } := by
  cases i with
  | cmdEnc | cmdFrame =>
    simp only [exec, execCmdEnc, execCmdFrame]
    split
    · rfl
    · split <;> rfl
  | rpix | routlo | routhi | rscore | rwinner => exact congrArg _ (State.replyIf_withPending ..)
  | _ => rfl

/-- Settles O4, by induction on the operations: the step takes the first word off, and what it does does not depend on the moves
behind it. -/
theorem stepsPerformTheHostsSequence : Obligations.StepsPerformTheHostsSequence := by
  intro ops rest s hwf hpending
  induction ops generalizing s with
  | nil => rw [← show s.pending = rest from hpending]; rfl
  | cons i ops ih =>
    obtain ⟨hi, hops⟩ := List.forall_mem_cons.mp hwf
    rw [List.length_cons, run_core_succ, step_of_pending_encode hi hpending, runOps_cons,
      exec_withPending i s, exec_withPending i s rest]
    cases exec i s with
    | next t => exact ih { t with pending := movesOf ops ++ rest } hops rfl
    | fault r => rfl
    | refused r => rfl

end Sys2Proof.Machine
end

section
/-! What reads and writes do to the host's side and to the registers (20_memory R56, R59). -/

namespace Sys2Proof.Machine

/-- The word of a register write is a write transaction (30_encoding R70). -/
@[simp] theorem twWrite_writeTW (r : RegName) (d : Word) : twWrite (writeTW r d) = true := twWrite_packTW ..

theorem exec_wpix (n : Fin 16) (v : Word) (s : State) : exec (.wpix n v) s = .next (s.loadPixel n v) := rfl

/-- A read of a pixel that is loaded returns its register (40 R112). -/
theorem exec_rpix_of_valid {n : Fin 16} {s : State} (h : pixValid s.regs.pixv n = true) :
    exec (.rpix n) s = .next (s.reply (s.regs.pix.get n)) := by
  rw [exec, execRpix, h, State.replyIf_true]

/-- Loading pixel `n` makes it valid (10_state R22). -/
theorem State.pixValid_loadPixel_self (s : State) (n : Fin 16) (v : Word) : pixValid (s.loadPixel n v).regs.pixv n = true := by
  simp [pixValid_pixvWith]

/-- Loading a pixel leaves every other valid (10_state R22). -/
theorem State.pixValid_loadPixel_of_valid {s : State} {n : Fin 16} (h : pixValid s.regs.pixv n = true) (m : Fin 16) (w : Word) :
    pixValid (s.loadPixel m w).regs.pixv n = true := by
  simp [pixValid_pixvWith, h]

/-- Settles O24: pixel `n` stays valid and keeps `v` when pixel `m` is loaded, so the read replies `v` and draws nothing. -/
theorem loadedPixelReadsBack : Obligations.LoadedPixelReadsBack := by
  intro n m v w s hmn
  have hvalid : pixValid ((s.loadPixel n v).loadPixel m w).regs.pixv n = true :=
    State.pixValid_loadPixel_of_valid (s.pixValid_loadPixel_self n v) m w
  have hpix : ((s.loadPixel n v).loadPixel m w).regs.pix.get n = v := by
    rw [State.loadPixel_pix, if_neg hmn.symm, State.loadPixel_pix, if_pos rfl]
  refine ⟨((s.loadPixel n v).loadPixel m w).reply v, ?_, rfl, rfl⟩
  simp only [runOps_cons, exec_wpix, thenDo_next, exec_rpix_of_valid hvalid, hpix, runOps_nil]

/-- A reply returns one value, whichever it is (40 section 4). -/
theorem State.exists_replyIf_reads (s : State) (valid : Bool) (v : Word) : ∃ x, (s.replyIf valid v).reads = s.reads ++ [x] := by
  cases valid with
  | true => exact ⟨v, rfl⟩
  | false => exact ⟨_, rfl⟩

/-- Every read but a bad one is a reply and nothing else (20_memory R56). -/
theorem OpEffect.eq_replyIf {s t : State} {i : Instr} (h : OpEffect s i t) (hread : i.isWrite = false)
    (hgood : ∀ a, i ≠ .badR a) : ∃ valid v, t = s.replyIf valid v := by
  cases h with
  | replied valid v => exact ⟨valid, v, rfl⟩
  | readFaulted a => exact absurd rfl (hgood a)
  | _ => simp [Instr.isWrite, encode] at hread

/-- No write returns a value or draws (20_memory R56). -/
theorem OpEffect.reads_draws_eq {s t : State} {i : Instr} (h : OpEffect s i t) (hwrite : i.isWrite = true) :
    t.reads = s.reads ∧ t.draws = s.draws := by
  cases h with
  | replied _ _ hread => exact absurd (hread.symm.trans hwrite) Bool.false_ne_true
  | readFaulted a => simp [Instr.isWrite, encode] at hwrite
  | _ => exact ⟨rfl, rfl⟩

/-- Settles O27: a bad read raises its fault and replies 0, every other read is a reply, which changes no register. -/
theorem readsChangeNoRegister : Obligations.ReadsChangeNoRegister := by
  refine ⟨fun i s t hread h => ?_, fun i s t hwrite h => (opEffect_of_exec h).reads_draws_eq hwrite⟩
  by_cases hbad : ∃ a, i = .badR a
  · obtain ⟨a, rfl⟩ := hbad
    cases h
    exact ⟨⟨0#32, rfl⟩, rfl, fun hgood => absurd rfl (hgood a), fun _ => rfl⟩
  · obtain ⟨valid, v, rfl⟩ := (opEffect_of_exec h).eq_replyIf hread (not_exists.mp hbad)
    have hregs := State.replyIf_regs s valid v
    exact ⟨s.exists_replyIf_reads valid v, by rw [hregs], fun _ => hregs, fun hbad' => absurd hbad' hbad⟩

end Sys2Proof.Machine
end

section
/-! A valid word is the word of its request, and the operation it decodes to is well-formed and encodes to that word
(30_encoding R70, R71, R74, R75). -/

namespace Sys2Proof

/-- Settles O6: the round trip `decode_encode`. -/
theorem decodeEncodeRoundTrip : Obligations.DecodeEncodeRoundTrip := fun _ => decode_encode

/-- The word of a request (30_encoding R70). -/
def Request.word (q : Request) : TW := packTW q.write q.addr q.data

/-- A word whose bits 62:40 are 0 and that is no read with data carries its own fields (30_encoding R70). -/
theorem request_of_valid {tw : TW} (hzero : twZero tw = 0#23) (hread : twWrite tw = false → twData tw = 0#32) :
    request tw = .ok ⟨twWrite tw, twAddr tw, twData tw⟩ := by
  rw [request, if_neg (not_not.mpr hzero), if_neg fun ⟨hw, hd⟩ => hd (hread hw)]

/-- A word with one of the bits 62:40 set, or a read with data, carries no request (30_encoding R70). -/
theorem exists_request_error {tw : TW} (h : twZero tw ≠ 0#23 ∨ (twWrite tw = false ∧ twData tw ≠ 0#32)) :
    ∃ e, request tw = .error e := by
  rw [request]
  by_cases hzero : twZero tw = 0#23
  · exact ⟨_, by rw [if_neg (not_not.mpr hzero), if_pos (h.resolve_left (not_not.mpr hzero))]⟩
  · exact ⟨_, if_pos hzero⟩

/-- Only the word of a request carries it, and a read's data is 0 (30_encoding R70). -/
theorem word_of_request_ok {tw : TW} {q : Request} (h : request tw = .ok q) :
    q.word = tw ∧ (q.write = false → q.data = 0#32) := by
  by_cases hbad : twZero tw ≠ 0#23 ∨ (twWrite tw = false ∧ twData tw ≠ 0#32)
  · obtain ⟨e, he⟩ := exists_request_error hbad
    rw [he] at h
    cases h
  · obtain ⟨hzero, hread⟩ := not_or.mp hbad
    have hread' : twWrite tw = false → twData tw = 0#32 := fun hw => by_contra fun hd => hread ⟨hw, hd⟩
    rw [request_of_valid (not_not.mp hzero) hread'] at h
    cases h
    exact ⟨packTW_fields (not_not.mp hzero), hread'⟩

/-- Every write to `CMD` is one of the commands or `ill.cmd` with data above 5 (40 R105 check 2, R111). -/
theorem decodeCommand_spec (d : Word) :
    encode (decodeCommand d) = writeTW .cmd d ∧ (decodeCommand d).wellFormed = true := by
  by_cases hd : illegalCommandData d = true
  · rw [decodeCommand_of_illegal hd]
    exact ⟨rfl, hd⟩
  · have hle : d.toNat ≤ 5 := by simpa [illegalCommandData, BitVec.lt_def] using hd
    obtain ⟨k, rfl⟩ : ∃ k : Fin 6, d = BitVec.ofNat 32 k.val := ⟨⟨d.toNat, by omega⟩, by simp⟩
    revert k
    decide

/-- No operand is legal where no register stands (20_memory R53, 30_encoding R75). -/
theorem badAddr_of_regAt_none {a : Addr} (h : regAt a = none) : badWriteAddr a = true ∧ badReadAddr a = true := by
  revert a
  decide +kernel

/-- The operation of a write is well-formed, and its word is that write (30_encoding R74, R75b). -/
theorem decodeWrite_spec (a : Addr) (d : Word) :
    encode (decodeWrite a d) = packTW true a d ∧ (decodeWrite a d).wellFormed = true := by
  unfold decodeWrite
  cases hreg : regAt a with
  | none => exact ⟨rfl, (badAddr_of_regAt_none hreg).1⟩
  | some r =>
    rw [← offset_of_regAt hreg]
    cases r with
    | cmd => exact decodeCommand_spec d
    | pix | quality | imgW | imgH => exact ⟨rfl, rfl⟩
    | _ => exact ⟨rfl, rfl⟩

/-- The operation of a read is well-formed, and its word is that read (30_encoding R74, R75c). -/
theorem decodeRead_spec (a : Addr) :
    encode (decodeRead a) = packTW false a 0#32 ∧ (decodeRead a).wellFormed = true := by
  unfold decodeRead
  cases hreg : regAt a with
  | none => exact ⟨rfl, (badAddr_of_regAt_none hreg).2⟩
  | some r =>
    rw [← offset_of_regAt hreg]
    cases r with
    | cmd => exact ⟨rfl, by decide⟩
    | _ => exact ⟨rfl, rfl⟩

/-- What a word carries decodes to a well-formed operation whose word it is (30_encoding R70, R71). -/
theorem decodeRequest_spec {tw : TW} {q : Request} (h : request tw = .ok q) :
    encode (decodeRequest q) = tw ∧ (decodeRequest q).wellFormed = true := by
  obtain ⟨rfl, hread⟩ := word_of_request_ok h
  obtain ⟨w, a, d⟩ := q
  cases w with
  | true => exact decodeWrite_spec a d
  | false =>
    obtain rfl : d = 0#32 := hread rfl
    exact decodeRead_spec a

theorem decode_of_request_ok {tw : TW} {q : Request} (h : request tw = .ok q) : decode tw = .ok (decodeRequest q) := by
  rw [decode, h]

theorem decode_of_request_error {tw : TW} {e : Reject} (h : request tw = .error e) : decode tw = .error e := by
  rw [decode, h]

/-- Settles O7: the word is that of a request, and the operation is that request's. -/
theorem encodeDecodeRoundTrip : Obligations.EncodeDecodeRoundTrip := by
  intro tw i h
  cases hreq : request tw with
  | error e =>
    rw [decode_of_request_error hreq] at h
    cases h
  | ok q =>
    rw [decode_of_request_ok hreq] at h
    cases h
    exact decodeRequest_spec hreq

end Sys2Proof
end

section
/-! The decoder is the first match in the opcode table (30_encoding R71), field by field. -/

namespace Sys2Proof

/-- A word is its four fields, whatever they hold (30_encoding R70). -/
theorem append_tw_fields (tw : TW) : tw.extractLsb' 63 1 ++ twZero tw ++ twAddr tw ++ twData tw = tw := by
  simp only [twZero, twAddr, twData, BitVec.extractLsb'_append_extractLsb'_eq_extractLsb', BitVec.extractLsb'_eq_self]

theorem tw_ext_iff {x y : TW} :
    x = y ↔ twWrite x = twWrite y ∧ twZero x = twZero y ∧ twAddr x = twAddr y ∧ twData x = twData y := by
  refine ⟨by rintro rfl; exact ⟨rfl, rfl, rfl, rfl⟩, fun ⟨hw, hz, ha, hd⟩ => ?_⟩
  have htop : x.extractLsb' 63 1 = y.extractLsb' 63 1 := by
    ext i hi
    obtain rfl : i = 0 := by omega
    simpa [twWrite] using hw
  rw [← append_tw_fields x, ← append_tw_fields y, htop, hz, ha, hd]

/-- A row matches a word where each of the four fields does, under the mask's field (30_encoding R71). -/
theorem OpRow.covers_iff (r : OpRow) (tw : TW) :
    r.covers tw = true ↔
      (twWrite tw && twWrite r.mask) = twWrite r.pattern ∧ twZero tw &&& twZero r.mask = twZero r.pattern ∧
      twAddr tw &&& twAddr r.mask = twAddr r.pattern ∧ twData tw &&& twData r.mask = twData r.pattern := by
  rw [OpRow.covers, beq_iff_eq, tw_ext_iff]
  simp only [twWrite, twZero, twAddr, twData, BitVec.getLsbD_and, BitVec.extractLsb'_and]

/-- The mask holds the bits 63:40 and the pattern has 0 in 62:40, as in every row of the table (30_encoding R70, R71). -/
def OpRow.FixesHead (r : OpRow) : Prop :=
  twWrite r.mask = true ∧ twZero r.mask = BitVec.allOnes 23 ∧ twZero r.pattern = 0#23

theorem OpRow.FixesHead.eq_packTW {r : OpRow} (hr : r.FixesHead) {tw : TW} (h : r.covers tw = true) :
    tw = packTW (twWrite r.pattern) (twAddr tw) (twData tw) := by
  obtain ⟨hmw, hmz, hpz⟩ := hr
  obtain ⟨hw, hz, -⟩ := (r.covers_iff tw).mp h
  rw [hmw, Bool.and_true] at hw
  rw [hmz, BitVec.and_allOnes, hpz] at hz
  rw [← hw, packTW_fields hz]

/-- An address with the bits 7, 6, 1 and 0 clear is the pixel register of its bits 5:2 (30_encoding R72, R73). -/
theorem offset_pix_twPixel {tw : TW} (h : twAddr tw &&& 0xC3#8 = 0#8) : (RegName.pix (twPixel tw)).offset = twAddr tw := by
  have haddr : ∀ a : Addr, a &&& 0xC3#8 = 0#8 → (RegName.pix (a.extractLsb' 2 4).toFin).offset = a := by decide +kernel
  have hpixel : tw.extractLsb' 34 4 = (twAddr tw).extractLsb' 2 4 := by
    ext i hi
    simp [twAddr, show 2 + i < 8 by omega, show 32 + (2 + i) = 34 + i by omega]
  rw [twPixel, hpixel, haddr _ h]

/-- Every word the row matches decodes to the row's operation. -/
def OpRow.Sound (r : OpRow) : Prop := ∀ tw, r.covers tw = true → decode tw = .ok (r.make tw)

/-- A row whose mask holds every bit matches its pattern only. -/
theorem OpRow.Sound.of_fullMask {r : OpRow} (hmask : r.mask = BitVec.allOnes 64)
    (hpattern : decode r.pattern = .ok (r.make r.pattern)) : r.Sound := by
  intro tw h
  rw [OpRow.covers, hmask, BitVec.and_allOnes, beq_iff_eq] at h
  rw [h, hpattern]

/-- A row whose mask holds the whole address and no bit of the data matches the writes to that address. -/
theorem OpRow.Sound.of_freeData {r : OpRow} {a : Addr} (hmask : r.mask = 0xFFFFFFFF00000000#64)
    (hpattern : r.pattern = packTW true a 0#32) (hmake : ∀ tw, r.make tw = decodeWrite a (twData tw)) : r.Sound := by
  intro tw h
  have hhead : r.FixesHead := by rw [OpRow.FixesHead, hmask, hpattern]; exact ⟨rfl, rfl, twZero_packTW ..⟩
  have htw := hhead.eq_packTW h
  obtain ⟨-, -, ha, -⟩ := (r.covers_iff tw).mp h
  rw [hmask, show twAddr 0xFFFFFFFF00000000#64 = BitVec.allOnes 8 from rfl, BitVec.and_allOnes] at ha
  rw [ha, hpattern, twWrite_packTW, twAddr_packTW] at htw
  rw [hmake, ← decode_write, ← htw]

/-- A row whose mask leaves only the bits 5:2 of the address free matches the pixel registers (30_encoding R72, R73). -/
theorem OpRow.FixesHead.eq_packTW_pix {r : OpRow} (hr : r.FixesHead) (hmask : twAddr r.mask = 0xC3#8)
    (hpattern : twAddr r.pattern = 0#8) {tw : TW} (h : r.covers tw = true) :
    tw = packTW (twWrite r.pattern) (RegName.pix (twPixel tw)).offset (twData tw) := by
  obtain ⟨-, -, ha, -⟩ := (r.covers_iff tw).mp h
  rw [offset_pix_twPixel (by rw [← hmask, ha, hpattern]), ← hr.eq_packTW h]

/-- The write rows are sound: the pixel row, the three register rows, and the rows of one word each. -/
theorem writeRows_sound : ∀ r ∈ writeRows, r.Sound := by
  have hfixed : ∀ r ∈ writeRows.drop 4, r.mask = BitVec.allOnes 64 ∧ decode r.pattern = .ok (r.make r.pattern) := by decide
  have hpix : (writeRows[0]).Sound := fun tw h => by
    have htw := OpRow.FixesHead.eq_packTW_pix ⟨rfl, rfl, rfl⟩ rfl rfl h
    calc decode tw = .ok (decodeWrite (RegName.pix (twPixel tw)).offset (twData tw)) :=
          (congrArg decode htw).trans (decode_write ..)
      _ = .ok (.wpix (twPixel tw) (twData tw)) := by rw [decodeWrite, regAt_offset]
  rw [writeRows, List.forall_mem_cons, List.forall_mem_cons, List.forall_mem_cons, List.forall_mem_cons]
  exact ⟨hpix, .of_freeData rfl (a := 0x40#8) rfl fun _ => rfl, .of_freeData rfl (a := 0x44#8) rfl fun _ => rfl,
    .of_freeData rfl (a := 0x48#8) rfl fun _ => rfl, fun r hr => .of_fullMask (hfixed r hr).1 (hfixed r hr).2⟩

/-- The read rows are sound: the pixel row, and the rows of one word each. -/
theorem readRows_sound : ∀ r ∈ readRows, r.Sound := by
  have hfixed : ∀ r ∈ readRows.drop 1, r.mask = BitVec.allOnes 64 ∧ decode r.pattern = .ok (r.make r.pattern) := by decide
  have hpix : (readRows[0]).Sound := fun tw h => by
    have htw := OpRow.FixesHead.eq_packTW_pix ⟨rfl, rfl, rfl⟩ rfl rfl h
    obtain ⟨-, -, -, hd⟩ := (OpRow.covers_iff _ tw).mp h
    have hzero : twData tw = 0#32 := (BitVec.and_allOnes ..).symm.trans hd
    rw [hzero] at htw
    calc decode tw = .ok (decodeRead (RegName.pix (twPixel tw)).offset) := (congrArg decode htw).trans (decode_read _)
      _ = .ok (.rpix (twPixel tw)) := by rw [decodeRead, regAt_offset]
  rw [readRows, List.forall_mem_cons]
  exact ⟨hpix, fun r hr => .of_fullMask (hfixed r hr).1 (hfixed r hr).2⟩

/-- The operation is one of the three catch-all rows' (30_encoding R71). -/
def Instr.isCatchAll : Instr → Bool
  | .illCmd _ | .badW _ _ | .badR _ => true
  | _ => false

/-- A row matches a packed word where it matches the three fields (30_encoding R71). -/
theorem OpRow.covers_packTW {r : OpRow} (hhead : r.FixesHead) {w : Bool} {a : Addr} {d : Word} (hw : w = twWrite r.pattern)
    (ha : a &&& twAddr r.mask = twAddr r.pattern) (hd : d &&& twData r.mask = twData r.pattern) :
    r.covers (packTW w a d) = true := by
  obtain ⟨hmw, -, hpz⟩ := hhead
  refine (r.covers_iff _).mpr ⟨?_, ?_, ?_, ?_⟩
  · rw [twWrite_packTW, hmw, Bool.and_true, hw]
  · rw [twZero_packTW, BitVec.zero_and, hpz]
  · rwa [twAddr_packTW]
  · rwa [twData_packTW]

/-- The word of every other operation is matched before the catch-all rows. -/
theorem exists_covers_of_not_isCatchAll {i : Instr} (h : i.isCatchAll = false) :
    ∃ r ∈ writeRows ++ readRows, r.covers (encode i) = true := by
  have hwrite : ∀ {k : Nat} (hk : k < writeRows.length), writeRows[k] ∈ writeRows ++ readRows :=
    fun hk => List.mem_append_left _ (List.getElem_mem hk)
  have hpix : ∀ n, (RegName.pix n).offset &&& 0xC3#8 = 0#8 := by decide
  cases i with
  | illCmd | badW | badR => cases h
  | wpix n v =>
    exact ⟨_, List.mem_append_left _ List.mem_cons_self, OpRow.covers_packTW ⟨rfl, rfl, rfl⟩ rfl (hpix n) BitVec.and_zero⟩
  | wqual v => exact ⟨_, hwrite (k := 1) (by decide), OpRow.covers_packTW ⟨rfl, rfl, rfl⟩ rfl rfl BitVec.and_zero⟩
  | wimgw v => exact ⟨_, hwrite (k := 2) (by decide), OpRow.covers_packTW ⟨rfl, rfl, rfl⟩ rfl rfl BitVec.and_zero⟩
  | wimgh v => exact ⟨_, hwrite (k := 3) (by decide), OpRow.covers_packTW ⟨rfl, rfl, rfl⟩ rfl rfl BitVec.and_zero⟩
  | rpix n =>
    exact ⟨_, List.mem_append_right _ List.mem_cons_self, OpRow.covers_packTW ⟨rfl, rfl, rfl⟩ rfl (hpix n) rfl⟩
  | _ => decide

/-- The first row that matches is the `k`-th when it matches and the `k` rows before it do not. -/
theorem find?_covers_eq_getElem {rows : List OpRow} {tw : TW} {k : Nat} (hk : k < rows.length) (hown : rows[k].covers tw = true)
    (hbefore : ∀ r ∈ rows.take k, ¬ r.covers tw = true) : (rows.find? fun r => r.covers tw) = some rows[k] := by
  rw [List.find?_eq_some_iff_getElem]
  refine ⟨hown, k, hk, rfl, fun j hj => ?_⟩
  simpa using hbefore rows[j] (List.mem_take_iff_getElem.mpr ⟨j, by omega, rfl⟩)

/-- Of the catch-all rows, the first that matches the word of a well-formed catch-all operation is its own (30_encoding R71). -/
theorem catchAllRows_find?_encode {i : Instr} (hwf : i.wellFormed = true) (h : i.isCatchAll = true) :
    (catchAllRows.find? fun r => r.covers (encode i)).map (fun r => r.make (encode i)) = some i := by
  cases i with
  | illCmd d =>
    have hown : catchAllRows[0].covers (encode (.illCmd d)) = true :=
      OpRow.covers_packTW ⟨rfl, rfl, rfl⟩ rfl rfl BitVec.and_zero
    rw [find?_covers_eq_getElem (by decide) hown nofun]
    exact congrArg (some ∘ Instr.illCmd) (twData_packTW ..)
  | badW a d =>
    have hcmd : ¬ catchAllRows[0].covers (encode (.badW a d)) = true := fun hcov => by
      obtain ⟨-, -, ha, -⟩ := (OpRow.covers_iff ..).mp hcov
      rw [encode, twAddr_packTW] at ha
      obtain rfl : a = 0x4C#8 := BitVec.and_allOnes.symm.trans ha
      cases hwf
    have hown : catchAllRows[1].covers (encode (.badW a d)) = true :=
      OpRow.covers_packTW ⟨rfl, rfl, rfl⟩ rfl BitVec.and_zero BitVec.and_zero
    rw [find?_covers_eq_getElem (by decide) hown (List.forall_mem_singleton.mpr hcmd)]
    exact congrArg some (congrArg₂ Instr.badW (twAddr_packTW ..) (twData_packTW ..))
  | badR a =>
    have hwrite : ∀ r ∈ catchAllRows.take 2, ¬ r.covers (encode (.badR a)) = true := fun r hr hcov => by
      have hpattern : ∀ r ∈ catchAllRows.take 2, twWrite r.pattern = true := by decide
      obtain ⟨hw, -⟩ := (r.covers_iff _).mp hcov
      rw [hpattern r hr, encode, twWrite_packTW] at hw
      cases hw
    have hown : catchAllRows[2].covers (encode (.badR a)) = true :=
      OpRow.covers_packTW ⟨rfl, rfl, rfl⟩ rfl BitVec.and_zero rfl
    rw [find?_covers_eq_getElem (by decide) hown hwrite]
    exact congrArg (some ∘ Instr.badR) (twAddr_packTW ..)
  | _ => cases h

/-- The first row that matches the word of a well-formed operation is the operation's own (30_encoding R71). -/
theorem tableDecode_encode {i : Instr} (hwf : i.wellFormed = true) : tableDecode (encode i) = some i := by
  have hsound : ∀ r ∈ writeRows ++ readRows, r.Sound := List.forall_mem_append.mpr ⟨writeRows_sound, readRows_sound⟩
  rw [tableDecode, opcodeTable, List.find?_append]
  cases hfind : (writeRows ++ readRows).find? fun r => r.covers (encode i) with
  | some r =>
    have hmake := hsound r (List.mem_of_find?_eq_some hfind) _ (List.find?_some (p := fun r : OpRow => r.covers (encode i)) hfind)
    rw [decode_encode hwf] at hmake
    exact congrArg some (Except.ok.inj hmake).symm
  | none =>
    rw [Option.none_or]
    refine catchAllRows_find?_encode hwf (Bool.eq_true_of_not_eq_false fun hexact => ?_)
    obtain ⟨r, hr, hcov⟩ := exists_covers_of_not_isCatchAll hexact
    exact List.find?_eq_none.mp hfind r hr hcov

/-- Settles O8: a valid word is the word of the operation it decodes to, and that operation's row is the first to match it. -/
theorem decoderIsTheOpcodeTable : Obligations.DecoderIsTheOpcodeTable := by
  intro tw q hreq
  obtain ⟨hencode, hwf⟩ := decodeRequest_spec hreq
  exact ⟨decodeRequest q, hencode ▸ tableDecode_encode hwf, decode_of_request_ok hreq⟩

end Sys2Proof
end

section
/-! The words that spell no transaction, read as numbers (30_encoding R70). -/

namespace Sys2Proof

theorem toNat_twZero (tw : TW) : (twZero tw).toNat = tw.toNat / 2 ^ 40 % 2 ^ 23 := by
  rw [twZero, BitVec.extractLsb'_toNat, Nat.shiftRight_eq_div_pow]

theorem toNat_twData (tw : TW) : (twData tw).toNat = tw.toNat % 2 ^ 32 := by
  rw [twData, BitVec.extractLsb'_toNat, Nat.shiftRight_zero]

theorem twWrite_eq_decide (tw : TW) : twWrite tw = decide (tw.toNat / 2 ^ 63 = 1) := by
  rw [twWrite, BitVec.getLsbD, Nat.testBit_eq_decide_div_mod_eq, Nat.mod_eq_of_lt (by have := tw.isLt; omega)]

theorem twZero_eq_zero_iff {tw : TW} : twZero tw = 0#23 ↔ tw.toNat / 2 ^ 40 % 2 ^ 23 = 0 := by
  rw [← BitVec.toNat_inj, toNat_twZero, BitVec.toNat_zero]

theorem twData_eq_zero_iff {tw : TW} : twData tw = 0#32 ↔ tw.toNat % 2 ^ 32 = 0 := by
  rw [← BitVec.toNat_inj, toNat_twData, BitVec.toNat_zero]

theorem twWrite_eq_false_iff {tw : TW} : twWrite tw = false ↔ tw.toNat / 2 ^ 63 = 0 := by
  have := tw.isLt
  rw [twWrite_eq_decide, decide_eq_false_iff_not]
  omega

/-- Settles O9: the conditions are those of `request`, field by field. -/
theorem exactlyTheInvalidWordsAreRejected : Obligations.ExactlyTheInvalidWordsAreRejected := by
  intro tw
  simp only [ne_eq, ← twWrite_eq_decide, ← twZero_eq_zero_iff, ← twData_eq_zero_iff, ← twWrite_eq_false_iff]
  refine ⟨fun hbad => ?_, fun hzero hread => ?_⟩
  · obtain ⟨e, he⟩ := exists_request_error hbad
    exact ⟨e, decode_of_request_error he⟩
  · have hreq := request_of_valid hzero hread
    have haddr : twAddr tw = BitVec.ofNat 8 (tw.toNat / 2 ^ 32) := by
      rw [← Nat.shiftRight_eq_div_pow]; rfl
    have hdata : twData tw = BitVec.ofNat 32 tw.toNat := rfl
    exact ⟨haddr ▸ hdata ▸ hreq, _, decode_of_request_ok hreq⟩

end Sys2Proof
end

section
/-! Colour words, endpoints and packed blocks as numbers and as bytes (30_encoding R80 to R84, 45 R198, 46 R218). -/

namespace Sys2Proof.Machine

/-- Concatenation puts the high part above all values of the low part. -/
theorem toNat_append_eq_add {m n : Nat} (x : BitVec m) (y : BitVec n) : (x ++ y).toNat = x.toNat * 2 ^ n + y.toNat := by
  rw [BitVec.toNat_append, ← Nat.shiftLeft_add_eq_or_of_lt y.isLt, Nat.shiftLeft_eq]

/-- A field of a bit vector as a number. -/
theorem toNat_extractLsb'_eq_div {n : Nat} (x : BitVec n) {k l : Nat} (h : n = k + l) :
    (x.extractLsb' k l).toNat = x.toNat / 2 ^ k := by
  subst h
  rw [BitVec.extractLsb'_toNat, Nat.shiftRight_eq_div_pow, Nat.mod_eq_of_lt]
  exact Nat.div_lt_of_lt_mul (by rw [← Nat.pow_add]; exact x.isLt)

theorem wordOfColor_colorOfWord (w : Word) : wordOfColor (colorOfWord w) = w := by
  simp only [wordOfColor, colorOfWord, BitVec.extractLsb'_append_extractLsb'_eq_extractLsb', BitVec.extractLsb'_eq_self]

theorem colorOfWord_wordOfColor (c : Color) : colorOfWord (wordOfColor c) = c := by
  have hr : (wordOfColor c).extractLsb' 0 8 = c.r := BitVec.extractLsb'_append_eq_right
  have hg : (wordOfColor c).extractLsb' 8 8 = c.g :=
    (BitVec.extractLsb'_append_eq_of_le (by decide)).trans BitVec.extractLsb'_append_eq_right
  have hb : (wordOfColor c).extractLsb' 16 8 = c.b :=
    (BitVec.extractLsb'_append_eq_of_le (by decide)).trans
      ((BitVec.extractLsb'_append_eq_of_le (by decide)).trans BitVec.extractLsb'_append_eq_right)
  have ha : (wordOfColor c).extractLsb' 24 8 = c.a :=
    (BitVec.extractLsb'_append_eq_of_le (by decide)).trans
      ((BitVec.extractLsb'_append_eq_of_le (by decide)).trans BitVec.extractLsb'_append_eq_left)
  rw [colorOfWord, hr, hg, hb, ha]

theorem toNat_wordOfColor (c : Color) :
    (wordOfColor c).toNat = c.r.toNat + 2 ^ 8 * c.g.toNat + 2 ^ 16 * c.b.toNat + 2 ^ 24 * c.a.toNat := by
  simp only [wordOfColor, toNat_append_eq_add]
  omega

theorem toNat_enc565 (c : Color) : (enc565 c).toNat = 2048 * (c.r.toNat / 8) + 32 * (c.g.toNat / 4) + c.b.toNat / 8 := by
  simp only [enc565, toNat_append_eq_add, toNat_extractLsb'_eq_div _ rfl]
  omega

/-- The bits `enc565` takes are those that quantizing keeps (41 R131). -/
theorem enc565_quantize (c : Color) : enc565 (quantize c) = enc565 c := by
  have h5 : ∀ x : Chan, (x &&& 0xF8#8).extractLsb' 3 5 = x.extractLsb' 3 5 := fun x => by
    rw [BitVec.extractLsb'_and]; exact BitVec.and_allOnes
  have h6 : ∀ x : Chan, (x &&& 0xFC#8).extractLsb' 2 6 = x.extractLsb' 2 6 := fun x => by
    rw [BitVec.extractLsb'_and]; exact BitVec.and_allOnes
  simp only [enc565, quantize, Config.maskR, Config.maskG, Config.maskB, h5, h6]

/-- Settles O37: both conversions of the colour word, and `enc565` as a number and on a quantized Color. -/
theorem colourWordAndEndpointEncoding : Obligations.ColourWordAndEndpointEncoding :=
  ⟨wordOfColor_colorOfWord, fun c => ⟨colorOfWord_wordOfColor c, toNat_wordOfColor c⟩,
    fun c => ⟨toNat_enc565 c, enc565_quantize c⟩⟩

theorem toNat_pack (stream : Word) (low high : Color) :
    (pack stream low high).toNat = stream.toNat * 2 ^ 32 + (enc565 low).toNat * 2 ^ 16 + (enc565 high).toNat := by
  simp only [pack, toNat_append_eq_add]
  omega

/-- The endpoints are in the order of their encodings (41 R134). -/
def EndpointsOrdered (c : EndpointPair) : Prop := (enc565 c.low).toNat ≤ (enc565 c.high).toNat

theorem sortAndQuantize_ordered (a b : Color) : EndpointsOrdered (sortAndQuantize a b) := by
  unfold sortAndQuantize
  split
  · next hle => simpa only [EndpointsOrdered, enc565_quantize] using BitVec.le_def.mp hle
  · next hgt => simpa only [EndpointsOrdered, enc565_quantize] using (BitVec.lt_def.mp (BitVec.not_le.mp hgt)).le

/-- Each of R, G and B of one Color is at most the other's. -/
def RgbLe (c d : Color) : Prop := c.r ≤ d.r ∧ c.g ≤ d.g ∧ c.b ≤ d.b

theorem RgbLe.trans {c d e : Color} (hcd : RgbLe c d) (hde : RgbLe d e) : RgbLe c e := by
  obtain ⟨hr, hg, hb⟩ := hcd
  obtain ⟨hr', hg', hb'⟩ := hde
  exact ⟨BitVec.le_trans hr hr', BitVec.le_trans hg hg', BitVec.le_trans hb hb'⟩

theorem RgbLe.refl (c : Color) : RgbLe c c := ⟨BitVec.le_refl _, BitVec.le_refl _, BitVec.le_refl _⟩

theorem chanMin_le_left (x y : Chan) : chanMin x y ≤ x := by
  unfold chanMin
  split
  · next hlt => exact BitVec.le_of_lt hlt
  · exact BitVec.le_refl _

theorem le_chanMax_left (x y : Chan) : x ≤ chanMax x y := by
  unfold chanMax
  split
  · next hlt => exact BitVec.le_of_lt hlt
  · exact BitVec.le_refl _

/-- The componentwise minimum is below the first pixel (41 R140). -/
theorem blockMin_rgbLe (P : Block) : RgbLe (blockMin P) P[0] :=
  List.foldlRecOn (motive := (RgbLe · P[0])) _ _ (.refl _) fun _ hacc _ _ =>
    .trans ⟨chanMin_le_left .., chanMin_le_left .., chanMin_le_left ..⟩ hacc

/-- The componentwise maximum is above the first pixel (41 R140). -/
theorem rgbLe_blockMax (P : Block) : RgbLe P[0] (blockMax P) :=
  List.foldlRecOn (motive := RgbLe P[0]) _ _ (.refl _) fun _ hacc _ _ =>
    hacc.trans ⟨le_chanMax_left .., le_chanMax_left .., le_chanMax_left ..⟩

/-- `enc565` is monotone in each channel (30_encoding R82). -/
theorem enc565_mono {c d : Color} (h : RgbLe c d) : (enc565 c).toNat ≤ (enc565 d).toNat := by
  obtain ⟨hr, hg, hb⟩ := h
  rw [BitVec.le_def] at hr hg hb
  rw [toNat_enc565, toNat_enc565]
  omega

theorem baseline_ordered (P : Block) : EndpointsOrdered (baseline P) := by
  rw [EndpointsOrdered, baseline, enc565_quantize, enc565_quantize]
  exact enc565_mono ((blockMin_rgbLe P).trans (rgbLe_blockMax P))

/-- Every pair after the baseline is one that `sort_and_quantize` answers (41 R143). -/
theorem enabledPairs_ordered {P : Block} {q : Nat} {c : EndpointPair} (h : c ∈ enabledPairs P q) : EndpointsOrdered c := by
  obtain ⟨a, b, rfl⟩ : ∃ a b, c = sortAndQuantize a b := by
    rcases List.mem_append.mp h with h | h <;> split at h
    · obtain ⟨p, -, rfl⟩ := List.mem_map.mp h
      exact ⟨_, _, rfl⟩
    · cases h
    · obtain ⟨p, -, rfl⟩ := List.mem_map.mp h
      exact ⟨_, _, rfl⟩
    · cases h
  exact sortAndQuantize_ordered a b

/-- Every candidate has its endpoints in the order of their encodings (41 R134, R143). -/
theorem buildEndpoints_ordered {P : Block} {q : BitVec 8} {c : EndpointPair} (h : c ∈ buildEndpoints P q) :
    EndpointsOrdered c := by
  rcases List.mem_cons.mp h with rfl | h
  · exact baseline_ordered P
  · split at h
    · cases h
    · exact enabledPairs_ordered h

/-- The block answered packs the endpoints of a candidate (45 R200). -/
theorem encodeBlock_blk_eq (P : Block) (q : BitVec 8) : ∃ c ∈ buildEndpoints P q, (encodeBlock P q).blk = blockWith c P := by
  have hwin : (encodeBlock P q).win < (buildEndpoints P q).length := by
    rw [← scoresOf_length _ P]; exact select_lt_length (scoresOf_buildEndpoints_ne_nil P q)
  exact ⟨_, List.getElem_mem hwin, congrArg (blockWith · P) (List.getD_eq_getElem _ _ hwin)⟩

/-- Settles O53: the two fields of the packed block are the encodings of a candidate's endpoints. -/
theorem packedBlockFields : Obligations.PackedBlockFields := by
  refine ⟨toNat_pack, fun P q => ?_⟩
  obtain ⟨c, hc, hblk⟩ := encodeBlock_blk_eq P q
  have hordered : (enc565 c.low).toNat ≤ (enc565 c.high).toNat := buildEndpoints_ordered hc
  have hlow := (enc565 c.low).isLt
  have hhigh := (enc565 c.high).isLt
  rw [hblk, blockWith, toNat_pack]
  omega

/-- The bytes of a packed block lie each within one of its three fields (30_encoding R83, R84). -/
theorem bytesOfBlock_pack (stream : Word) (low high : Color) :
    bytesOfBlock (pack stream low high) =
      [(enc565 high).extractLsb' 0 8, (enc565 high).extractLsb' 8 8, (enc565 low).extractLsb' 0 8, (enc565 low).extractLsb' 8 8,
       stream.extractLsb' 0 8, stream.extractLsb' 8 8, stream.extractLsb' 16 8, stream.extractLsb' 24 8] := by
  have hhigh : ∀ k, k + 8 ≤ 16 → (pack stream low high).extractLsb' k 8 = (enc565 high).extractLsb' k 8 :=
    fun k hk => BitVec.extractLsb'_append_eq_of_add_le hk
  have hlow : ∀ k, k + 8 ≤ 16 → (pack stream low high).extractLsb' (k + 16) 8 = (enc565 low).extractLsb' k 8 :=
    fun k hk => (BitVec.extractLsb'_append_eq_of_le (Nat.le_add_left ..)).trans (BitVec.extractLsb'_append_eq_of_add_le hk)
  have hstream : ∀ k, (pack stream low high).extractLsb' (k + 32) 8 = stream.extractLsb' k 8 :=
    fun k => (BitVec.extractLsb'_append_eq_of_le (by omega)).trans (BitVec.extractLsb'_append_eq_of_le (by omega))
  rw [← hhigh 0 (by decide), ← hhigh 8 (by decide), ← hlow 0 (by decide), ← hlow 8 (by decide),
    ← hstream 0, ← hstream 8, ← hstream 16, ← hstream 24]
  rfl

/-- The bytes of a block are those of `OUT_LO` then those of `OUT_HI` (46 R218). -/
theorem bytesOfBlock_eq_halves (blk : BitVec 64) :
    bytesOfBlock blk = bytesOfWord (lowHalf blk) ++ bytesOfWord (highHalf blk) := by
  have hbyte : ∀ j k, k + 8 ≤ 32 → (blk.extractLsb' j 32).extractLsb' k 8 = blk.extractLsb' (j + k) 8 := by
    intro j k hk
    ext i hi
    simp [show k + i < 32 by omega, Nat.add_assoc]
  simp only [bytesOfWord, lowHalf, highHalf, hbyte, Nat.reduceAdd, Nat.reduceLeDiff]
  rfl

/-- Settles O54: the bytes field by field, and half by half. -/
theorem blockBytesAreLittleEndian : Obligations.BlockBytesAreLittleEndian := ⟨bytesOfBlock_pack, bytesOfBlock_eq_halves⟩

end Sys2Proof.Machine
end

section
/-! A rejected word, and decoded words written out (30_encoding R70 to R75). -/

namespace Sys2Proof.Machine

/-- Settles O2: the step is the pending transaction, which the decoder rejects. -/
theorem stepRefusesWhatSpellsNoTransaction : Obligations.StepRefusesWhatSpellsNoTransaction := by
  intro s tw rest e hpending hdecode
  rw [step_of_pending_transaction hpending, stepTransaction_of_decode_error hdecode]

/-- Settles O5: each of the eight words by evaluation of the decoder. -/
theorem handWrittenWordsDecode : Obligations.HandWrittenWordsDecode := ⟨rfl, rfl, rfl, rfl, rfl, rfl, rfl, rfl⟩

end Sys2Proof.Machine
end

section
/-! The pseudo-operations `ldblk` and `encblk` (30_encoding R78, 40 R106). -/

namespace Sys2Proof.Machine

/-- The registers of `s` with all sixteen pixels loaded with the words of a block (40 R100). -/
def State.withBlock (s : State) (ws : Vector Word 16) : State :=
  { s with regs := { s.regs with pix := ws, pixv := 0xFFFF#16 } }

/-- Loading pixels in turn loads those and no other, and changes nothing else (40 R100). -/
theorem runOps_wpix_map (ws : Vector Word 16) (ns : List (Fin 16)) (s : State) :
    ∃ pix pixv, runOps (ns.map fun n => .wpix n (ws.get n)) s =
        .next { s with regs := { s.regs with pix := pix, pixv := pixv } } ∧
      (∀ m, pix.get m = if m ∈ ns then ws.get m else s.regs.pix.get m) ∧
      (∀ m, pixValid pixv m = (pixValid s.regs.pixv m || decide (m ∈ ns))) := by
  induction ns generalizing s with
  | nil => exact ⟨_, _, rfl, by simp, by simp⟩
  | cons n ns ih =>
    obtain ⟨pix, pixv, hrun, hpix, hvalid⟩ := ih (s.loadPixel n (ws.get n))
    refine ⟨pix, pixv, hrun, fun m => ?_, fun m => ?_⟩
    · rw [hpix, State.loadPixel_pix]
      by_cases hm : m = n <;> simp [hm]
    · rw [hvalid, State.loadPixel_regs, pixValid_pixvWith]
      simp [Bool.or_assoc, eq_comm, Bool.decide_or]

/-- `ldblk` loads the whole block (30_encoding R78). -/
theorem runOps_ldblk (ws : Vector Word 16) (s : State) : runOps (ldblk ws) s = .next (s.withBlock ws) := by
  obtain ⟨pix, pixv, hrun, hpix, hvalid⟩ := runOps_wpix_map ws (List.finRange 16) s
  obtain rfl : pix = ws := Vector.ext fun n hn => (hpix ⟨n, hn⟩).trans (if_pos (List.mem_finRange _))
  obtain rfl : pixv = 0xFFFF#16 := BitVec.eq_of_getLsbD_eq fun n hn => by
    have hall : ∀ m : Fin 16, (0xFFFF#16).getLsbD m = true := by decide
    have hset : pixValid pixv ⟨n, hn⟩ = true := by rw [hvalid, decide_eq_true (List.mem_finRange _), Bool.or_true]
    exact hset.trans (hall ⟨n, hn⟩).symm
  exact hrun

theorem exec_wqual (v : Word) (s : State) : exec (.wqual v) s = .next (s.setQuality (qualityOfData v)) := rfl

theorem exec_cmdEnc (s : State) : exec .cmdEnc s = execCmdEnc s := rfl

/-- While `RV = 1` the three reads after an encode return `OUT_LO`, `OUT_HI` and `SCORE` (40 R119 to R121). -/
theorem runOps_readResult {s : State} (hrv : s.regs.rv = true) :
    runOps (getblk ++ [.rscore]) s =
      .next (((s.reply (lowHalf s.regs.out)).reply (highHalf s.regs.out)).reply s.regs.score) := by
  simp [getblk, exec, execRoutlo, execRouthi, execRscore, hrv]

/-- `encblk` with no fault pending: load, encode, and three replies (30_encoding R78). -/
theorem runOps_encblk (q : Word) (ws : Vector Word 16) {s t : State} (herr : s.regs.err = 0#5)
    (ht : t = ((s.setQuality (qualityOfData q)).withBlock ws).encodePixels) :
    runOps (encblk q ws) s =
      .next (((t.reply (lowHalf t.regs.out)).reply (highHalf t.regs.out)).reply t.regs.score) := by
  have hops : encblk q ws = .wqual q :: (ldblk ws ++ .cmdEnc :: (getblk ++ [.rscore])) := by simp [encblk]
  have henc : execCmdEnc ((s.setQuality (qualityOfData q)).withBlock ws) = .next t := ht ▸ execCmdEnc_ready herr rfl
  have hrv : t.regs.rv = true := by rw [ht]; rfl
  rw [hops, runOps_cons, exec_wqual, thenDo_next, runOps_append, runOps_ldblk, thenDo_next, runOps_cons, exec_cmdEnc, henc,
    thenDo_next, runOps_readResult hrv]

/-- Settles O58: the three replies show the result registers that the encode of the loaded block committed. -/
theorem encblkReturnsTheEncodedBlock : Obligations.EncblkReturnsTheEncodedBlock := by
  intro q ws s herr
  refine ⟨_, runOps_encblk q ws herr rfl, ?_, rfl, herr, rfl⟩
  rw [State.reply_reads, State.reply_reads, State.reply_reads, List.append_assoc, List.append_assoc]
  rfl

end Sys2Proof.Machine
end

section
/-! The words of 40_host_commands as numbers: the word each rule of the chapter gives decodes to the rule's operation
(30_encoding R70, R72, R74). -/

namespace Sys2Proof

/-- The word of a well-formed operation decodes to it, however that word is written. -/
theorem decode_of_encode_eq {i : Instr} {tw : TW} (hwf : i.wellFormed = true) (h : encode i = tw) : decode tw = .ok i :=
  h ▸ decode_encode hwf

/-- The word of a register write: bit 63, the offset from bit 32, the data (30_encoding R70). -/
theorem writeTW_eq_or (r : RegName) (d : Word) :
    writeTW r d = 0x8000000000000000#64 ||| r.offset.setWidth 64 <<< 32 ||| d.setWidth 64 := packTW_or ..

/-- The word of a register read: the offset from bit 32 and nothing else (30_encoding R70). -/
theorem readTW_eq_shiftLeft (r : RegName) : readTW r = r.offset.setWidth 64 <<< 32 := by
  rw [readTW, packTW_or, BitVec.setWidth_zero, BitVec.or_zero]
  exact BitVec.zero_or

/-- Pixel register `n` stands at offset `4 * n`, which fits in the address (30_encoding R72). -/
theorem setWidth_offset_pix (n : Fin 16) : (RegName.pix n).offset.setWidth 64 = BitVec.ofNat 64 (4 * n.val) := by
  revert n
  decide

end Sys2Proof
end

section
/-! The register writes (40_host_commands section 2). -/

namespace Sys2Proof.Machine

/-- Settles O11: the state answered is `loadPixel`, known pixel by pixel and valid bit by valid bit. -/
theorem wpixLoadsThePixel : Obligations.WpixLoadsThePixel := by
  intro n v s
  refine ⟨decode_of_encode_eq rfl ?_, s.loadPixel n v, exec_wpix n v s, fun m => s.loadPixel_pix n m v, fun m => ?_, rfl,
    rfl, rfl, rfl, rfl⟩
  · rw [encode, writeTW_eq_or, setWidth_offset_pix]
  · simp only [eq_comm (a := m)]
    exact pixValid_pixvWith s.regs.pixv n m

/-- Settles O12: each operation is the one write of its register. -/
theorem configurationWritesSetTheirRegister : Obligations.ConfigurationWritesSetTheirRegister := fun v _ =>
  ⟨⟨decode_of_encode_eq rfl (writeTW_eq_or .quality v), rfl⟩, ⟨decode_of_encode_eq rfl (writeTW_eq_or .imgW v), rfl⟩,
    ⟨decode_of_encode_eq rfl (writeTW_eq_or .imgH v), rfl⟩⟩

end Sys2Proof.Machine
end

section
/-! The commands (40_host_commands section 3). -/

namespace Sys2Proof.Machine

/-- A fault raised while none is pending leaves its own bit alone in `ERR` (60 R236). -/
theorem State.raise_of_err_eq_zero {s : State} (h : s.regs.err = 0#5) (f : CoreFault) :
    s.raise f = { s with regs := { s.regs with err := f.mask } } := by
  rw [State.raise, errWith, h, BitVec.zero_or]

/-- Adding to a register is adding modulo its width (10_state R35, R36). -/
theorem add_ofNat_eq_ofNat_toNat_add {w : Nat} (x : BitVec w) (k : Nat) :
    x + BitVec.ofNat w k = BitVec.ofNat w (x.toNat + k) := by
  rw [BitVec.ofNat_add, BitVec.ofNat_toNat, BitVec.setWidth_eq]

/-- The success path of `cmd.enc` register by register, the totals modulo their widths (40 R106). -/
theorem State.encodePixels_eq (s : State) : s.encodePixels = { s with regs := { s.regs with
    out := (encodeRegs s.regs).blk
    score := BitVec.ofNat 32 (encodeRegs s.regs).sc
    winner := BitVec.ofNat 8 (encodeRegs s.regs).win
    rv := true
    dist := BitVec.ofNat 64 (s.regs.dist.toNat + (encodeRegs s.regs).sc)
    blkCnt := BitVec.ofNat 32 (s.regs.blkCnt.toNat + 1) } } := by
  rw [State.encodePixels, State.commitResult, add_ofNat_eq_ofNat_toNat_add, add_ofNat_eq_ofNat_toNat_add]

/-- Settles O14: the three paths of `cmd.enc`, and the bounds of `encode_block`. -/
theorem encRunsAsItsRuleSays : Obligations.EncRunsAsItsRuleSays := by
  refine ⟨decode_encode (i := .cmdEnc) rfl, fun s herr => execCmdEnc_refused herr, fun s herr hpart => ?_,
    blockOf_get, fun s herr hfull => ⟨?_, ?_, ?_⟩⟩
  · rw [exec_cmdEnc, execCmdEnc_incomplete herr hpart, State.raise_of_err_eq_zero herr]
    rfl
  · exact (encodeBlock_sc_le_maxScore _ _).trans_lt (by decide)
  · exact Nat.le_of_lt_succ (encodeBlock_win_lt_nCandMax _ _)
  · rw [exec_cmdEnc, execCmdEnc_ready herr hfull, State.encodePixels_eq, encodeRegs]

theorem exec_cmdFrame (s : State) : exec .cmdFrame s = execCmdFrame s := rfl

/-- What `cmd.frame` does while a fault is pending (40 R107). -/
theorem execCmdFrame_refused {s : State} (herr : s.regs.err ≠ 0#5) : execCmdFrame s = .next (s.raise .refused) := by
  rcases execCmdFrame_cases s with ⟨-, hs⟩ | ⟨hzero, -⟩ | ⟨hzero, -⟩
  · exact hs
  · exact absurd hzero herr
  · exact absurd hzero herr

/-- What `cmd.frame` does when a dimension is no multiple of 4 (40 R107). -/
theorem execCmdFrame_invalid {s : State} (herr : s.regs.err = 0#5)
    (hdim : ¬(s.regs.imgW.toNat % 4 = 0 ∧ s.regs.imgH.toNat % 4 = 0)) :
    execCmdFrame s = .next (s.raise .invalidDimensions) := by
  rcases execCmdFrame_cases s with ⟨hne, -⟩ | ⟨-, -, hs⟩ | ⟨-, hmul, -⟩
  · exact absurd herr hne
  · exact hs
  · exact absurd hmul hdim

/-- What `cmd.frame` does when it passes (40 R107). -/
theorem execCmdFrame_ready {s : State} (h : s.frameReady) : execCmdFrame s = .next s.clearTotals := by
  obtain ⟨herr, hdim⟩ := h
  rcases execCmdFrame_cases s with ⟨hne, -⟩ | ⟨-, hnot, -⟩ | ⟨-, -, hs⟩
  · exact absurd herr hne
  · exact absurd hdim hnot
  · exact hs

/-- Settles O15: the three paths of `cmd.frame`. -/
theorem frameRunsAsItsRuleSays : Obligations.FrameRunsAsItsRuleSays := by
  refine ⟨decode_encode (i := .cmdFrame) rfl, fun s herr => execCmdFrame_refused herr, fun s herr hdim => ?_,
    fun s hready => execCmdFrame_ready hready⟩
  rw [exec_cmdFrame, execCmdFrame_invalid herr (not_and_or.mpr hdim), State.raise_of_err_eq_zero herr]
  rfl

/-- Settles O13: the meaning of `cmd.nop` is the state itself. -/
theorem nopChangesNothing : Obligations.NopChangesNothing := ⟨decode_encode (i := .cmdNop) rfl, fun _ => rfl⟩

/-- Settles O16: `clearErr` and `clearPixv` write one register each. -/
theorem clearCommandsClearTheirRegister : Obligations.ClearCommandsClearTheirRegister :=
  ⟨⟨decode_encode (i := .cmdClrerr) rfl, fun _ => rfl⟩, ⟨decode_encode (i := .cmdClrpix) rfl, fun _ => rfl⟩⟩

end Sys2Proof.Machine
end

section
/-! The register reads (40_host_commands section 4): the words returned as numbers, and the reads of registers that may hold no
value; then `cmd.srst`, after which none of those does. -/

namespace Sys2Proof.Machine

/-- A narrow register is read as its number (30_encoding R72). -/
theorem zext32_eq_ofNat {n : Nat} (v : BitVec n) : zext32 v = BitVec.ofNat 32 v.toNat := (BitVec.ofNat_toNat 32 v).symm

theorem lowHalf_eq_ofNat (v : BitVec 64) : lowHalf v = BitVec.ofNat 32 v.toNat := rfl

theorem highHalf_eq_ofNat (v : BitVec 64) : highHalf v = BitVec.ofNat 32 (v.toNat / 2 ^ 32) := by
  rw [← Nat.shiftRight_eq_div_pow]
  rfl

/-- `STATUS` as a sum of its three bits' weights (10_state R29). -/
theorem statusWord_eq_ofNat (r : Regs) : statusWord r = BitVec.ofNat 32
    ((if r.rv then 1 else 0) + (if r.pixv = 0xFFFF#16 then 2 else 0) + (if r.err = 0#5 then 0 else 4)) := by
  have hbits : ∀ e b v : Bool, 0#29 ++ BitVec.ofBool e ++ BitVec.ofBool b ++ BitVec.ofBool v =
      BitVec.ofNat 32 ((if v = true then 1 else 0) + (if b = true then 2 else 0) + (if e = false then 0 else 4)) := by decide
  rw [statusWord, hbits]
  simp only [errAny_eq_false, blkRdy_eq_true]

/-- A read of a pixel that is not loaded is a draw (40 R112). -/
theorem exec_rpix_of_not_valid {n : Fin 16} {s : State} (h : pixValid s.regs.pixv n = false) :
    exec (.rpix n) s = .next s.replyUnspecified := by
  rw [exec, execRpix, h, State.replyIf_false]

/-- Settles O18: the read replies the register while its valid bit is set, and draws while it is not. -/
theorem rpixReturnsThePixelOrADraw : Obligations.RpixReturnsThePixelOrADraw := by
  refine fun n s => ⟨decode_of_encode_eq rfl ?_, fun h => exec_rpix_of_valid h, fun h => ⟨_, exec_rpix_of_not_valid h⟩⟩
  rw [encode, readTW_eq_shiftLeft, setWidth_offset_pix]

/-- Settles O19: each of the six replies is the register's number. -/
theorem configAndStatusReadsReturnTheirRegister : Obligations.ConfigAndStatusReadsReturnTheirRegister := by
  intro s
  rw [← zext32_eq_ofNat, ← zext32_eq_ofNat, ← zext32_eq_ofNat, ← statusWord_eq_ofNat]
  exact ⟨⟨decode_encode (i := .rqual) rfl, rfl⟩, ⟨decode_encode (i := .rimgw) rfl, rfl⟩,
    ⟨decode_encode (i := .rimgh) rfl, rfl⟩, ⟨decode_encode (i := .rstatus) rfl, rfl⟩,
    ⟨decode_encode (i := .rerr) rfl, rfl⟩, ⟨decode_encode (i := .rpixv) rfl, rfl⟩⟩

/-- The four result reads, while `RV = 1` (40 R119 to R122). -/
theorem exec_resultReads_of_rv {s : State} (hrv : s.regs.rv = true) :
    exec .routlo s = .next (s.reply (lowHalf s.regs.out)) ∧ exec .routhi s = .next (s.reply (highHalf s.regs.out)) ∧
    exec .rscore s = .next (s.reply s.regs.score) ∧ exec .rwinner s = .next (s.reply (zext32 s.regs.winner)) := by
  simp only [exec, execRoutlo, execRouthi, execRscore, execRwinner, hrv, State.replyIf_true, and_self]

/-- Each result read is a draw while `RV = 0` (10_state R38, 40 R119 to R122). -/
theorem exec_resultRead_of_not_rv {s : State} (hrv : s.regs.rv = false) :
    ∀ i ∈ [Instr.routlo, .routhi, .rscore, .rwinner], exec i s = .next s.replyUnspecified := by
  simp only [List.forall_mem_cons, exec, execRoutlo, execRouthi, execRscore, execRwinner, hrv, State.replyIf_false,
    List.not_mem_nil, false_implies, implies_true, and_self]

/-- Settles O20: a reply of the register's number while `RV = 1`, a draw while `RV = 0`. -/
theorem resultReadsReturnTheirRegisterOrADraw : Obligations.ResultReadsReturnTheirRegisterOrADraw := by
  refine ⟨⟨decode_encode (i := .routlo) rfl, decode_encode (i := .routhi) rfl,
    decode_encode (i := .rscore) rfl, decode_encode (i := .rwinner) rfl⟩, fun s hrv => ?_,
    fun s hrv i hi => ⟨_, exec_resultRead_of_not_rv hrv i hi⟩⟩
  rw [← lowHalf_eq_ofNat, ← highHalf_eq_ofNat, ← zext32_eq_ofNat]
  exact exec_resultReads_of_rv hrv

/-- Settles O21: `BLK_CNT` as it is, and the two halves of `DIST`. -/
theorem totalReadsReturnTheirRegister : Obligations.TotalReadsReturnTheirRegister := by
  refine ⟨⟨decode_encode (i := .rblkcnt) rfl, decode_encode (i := .rdistlo) rfl,
    decode_encode (i := .rdisthi) rfl⟩, fun s => ?_⟩
  rw [← lowHalf_eq_ofNat, ← highHalf_eq_ofNat]
  exact ⟨rfl, rfl, rfl⟩

/-- Settles O17: the reset leaves `PIXV = 0` and `RV = 0`, so each of those reads is a draw. -/
theorem srstGivesTheResetState : Obligations.SrstGivesTheResetState :=
  ⟨decode_encode (i := .cmdSrst) rfl, fun s =>
    ⟨s.resetCore, rfl, Regs.afterReset_resetValues _, rfl, rfl, rfl,
      fun _ => ⟨_, exec_rpix_of_not_valid BitVec.getLsbD_zero, rfl⟩,
      fun i hi => ⟨_, exec_resultRead_of_not_rv rfl i hi, rfl⟩⟩⟩

end Sys2Proof.Machine
end

section
/-! The malformed accesses (40 R111, R125, R126): the catch-all operands as numbers. -/

namespace Sys2Proof

/-- An address is misaligned when it is no multiple of 4 (20_memory R53). -/
theorem misaligned_iff (a : Addr) : (a.extractLsb' 0 2 != 0#2) = true ↔ a.toNat % 4 ≠ 0 := by
  rw [bne_iff_ne, ne_eq, ← BitVec.toNat_inj, BitVec.extractLsb'_toNat]
  rfl

theorem badWriteAddr_iff (a : Addr) :
    badWriteAddr a = true ↔ a.toNat % 4 ≠ 0 ∨ 0x78 ≤ a.toNat ∨ (0x50 ≤ a.toNat ∧ a.toNat ≤ 0x74) := by
  simp only [badWriteAddr, Bool.or_eq_true, Bool.and_eq_true, decide_eq_true_eq, misaligned_iff, or_assoc]
  rfl

theorem badReadAddr_iff (a : Addr) : badReadAddr a = true ↔ a.toNat % 4 ≠ 0 ∨ 0x78 ≤ a.toNat ∨ a.toNat = 0x4C := by
  simp only [badReadAddr, Bool.or_eq_true, beq_iff_eq, decide_eq_true_eq, misaligned_iff, or_assoc, ← BitVec.toNat_inj]
  rfl

theorem illegalCommandData_iff (d : Word) : illegalCommandData d = true ↔ 5 < d.toNat := decide_eq_true_iff

end Sys2Proof

namespace Sys2Proof.Machine

/-- Settles O22: each clause's operands are those of a well-formed catch-all operation, which raises its fault. -/
theorem malformedAccessesRaiseTheirFault : Obligations.MalformedAccessesRaiseTheirFault :=
  ⟨fun d _ h => ⟨decode_encode (i := .illCmd d) ((illegalCommandData_iff d).mpr h), rfl⟩,
    fun a d _ h => ⟨decode_encode (i := .badW a d) ((badWriteAddr_iff a).mpr h), rfl⟩,
    fun a _ h => ⟨decode_encode (i := .badR a) ((badReadAddr_iff a).mpr h), rfl⟩⟩

end Sys2Proof.Machine
end

section
/-! Quantizing, sorting and extrapolating of Colors as numbers (41 R131 to R139). -/

namespace Sys2Proof.Machine

/-- Masking the low `k` bits off rounds down to a multiple of `2^k`. -/
theorem toNat_and_allOnes_shiftLeft {w : Nat} (x : BitVec w) (k : Nat) :
    (x &&& BitVec.allOnes w <<< k).toNat = 2 ^ k * (x.toNat / 2 ^ k) := by
  have hlt : x.toNat / 2 ^ k * 2 ^ k < 2 ^ w := (Nat.div_mul_le_self ..).trans_lt x.isLt
  rw [← BitVec.shiftLeft_ushiftRight, BitVec.toNat_shiftLeft, BitVec.toNat_ushiftRight, Nat.shiftRight_eq_div_pow,
    Nat.shiftLeft_eq, Nat.mod_eq_of_lt hlt, Nat.mul_comm]

theorem toNat_quantize_r (c : Color) : (quantize c).r.toNat = 8 * (c.r.toNat / 8) := toNat_and_allOnes_shiftLeft c.r 3

theorem toNat_quantize_g (c : Color) : (quantize c).g.toNat = 4 * (c.g.toNat / 4) := toNat_and_allOnes_shiftLeft c.g 2

theorem toNat_quantize_b (c : Color) : (quantize c).b.toNat = 8 * (c.b.toNat / 8) := toNat_and_allOnes_shiftLeft c.b 3

theorem toNat_quantize_a (c : Color) : (quantize c).a.toNat = 128 * (c.a.toNat / 128) := toNat_and_allOnes_shiftLeft c.a 7

/-- Quantizing a Color is one mask of its colour word (41 R131). -/
theorem wordOfColor_quantize (c : Color) : wordOfColor (quantize c) = wordOfColor c &&& 0x80F8FCF8#32 := by
  have hmask : 0x80F8FCF8#32 = Config.maskA ++ Config.maskB ++ Config.maskG ++ Config.maskR := rfl
  rw [hmask, wordOfColor, wordOfColor, BitVec.and_append, BitVec.and_append, BitVec.and_append]
  rfl

/-- Each quantizing mask is disjoint from the bits that a quantized channel leaves 0 (30_encoding R81). -/
theorem isQuantized_quantize (c : Color) : isQuantized (quantize c) = true := by
  simp [isQuantized, quantize, Config.maskR, Config.maskG, Config.maskB, Config.maskA, BitVec.and_assoc]

theorem quantize_quantize (c : Color) : quantize (quantize c) = quantize c := by
  simp [quantize, BitVec.and_assoc]

/-- Settles O36: rounding down channel by channel, and the error bounds that follow from it. -/
theorem quantizeRoundsDown : Obligations.QuantizeRoundsDown := by
  refine fun c => ⟨toNat_quantize_r c, toNat_quantize_g c, toNat_quantize_b c, toNat_quantize_a c, wordOfColor_quantize c,
    isQuantized_quantize c, quantize_quantize c, ?_⟩
  rw [toNat_quantize_r, toNat_quantize_g, toNat_quantize_b]
  omega

theorem sortAndQuantize_of_le {a b : Color} (h : (enc565 a).toNat ≤ (enc565 b).toNat) :
    sortAndQuantize a b = ⟨quantize a, quantize b⟩ := if_pos (BitVec.le_def.mpr h)

theorem sortAndQuantize_of_lt {a b : Color} (h : (enc565 b).toNat < (enc565 a).toNat) :
    sortAndQuantize a b = ⟨quantize b, quantize a⟩ := if_neg (BitVec.not_le.mpr (BitVec.lt_def.mpr h))

/-- The two ends are the two arguments quantized, in one order or the other (41 R134). -/
theorem sortAndQuantize_eq_or (a b : Color) :
    sortAndQuantize a b = ⟨quantize a, quantize b⟩ ∨ sortAndQuantize a b = ⟨quantize b, quantize a⟩ :=
  (le_or_gt (enc565 a).toNat (enc565 b).toNat).imp sortAndQuantize_of_le sortAndQuantize_of_lt

theorem sameRgb_refl (c : Color) : sameRgb c c = true := sameRgb_iff.mpr ⟨rfl, rfl, rfl⟩

theorem sameRgb_symm {c d : Color} (h : sameRgb c d = true) : sameRgb d c = true := by
  obtain ⟨hr, hg, hb⟩ := sameRgb_iff.mp h
  exact sameRgb_iff.mpr ⟨hr.symm, hg.symm, hb.symm⟩

theorem sameRgb_trans {c d e : Color} (hcd : sameRgb c d = true) (hde : sameRgb d e = true) : sameRgb c e = true := by
  obtain ⟨hr, hg, hb⟩ := sameRgb_iff.mp hcd
  obtain ⟨hr', hg', hb'⟩ := sameRgb_iff.mp hde
  exact sameRgb_iff.mpr ⟨hr.trans hr', hg.trans hg', hb.trans hb'⟩

/-- The endpoint encoding determines the quantized R, G and B (30_encoding R82). -/
theorem quantize_sameRgb_of_enc565_eq {a b : Color} (h : enc565 a = enc565 b) : sameRgb (quantize a) (quantize b) = true := by
  have henc := congrArg BitVec.toNat h
  have hag := a.g.isLt
  have hbg := b.g.isLt
  have hab := a.b.isLt
  have hbb := b.b.isLt
  rw [toNat_enc565, toNat_enc565] at henc
  simp only [sameRgb_iff, ← BitVec.toNat_inj, toNat_quantize_r, toNat_quantize_g, toNat_quantize_b]
  omega

/-- In R, G and B the pair does not depend on the order of the arguments (41 R135). -/
theorem sortAndQuantize_comm_sameRgb (a b : Color) :
    sameRgb (sortAndQuantize a b).low (sortAndQuantize b a).low = true ∧
    sameRgb (sortAndQuantize a b).high (sortAndQuantize b a).high = true := by
  rcases lt_trichotomy (enc565 a).toNat (enc565 b).toNat with hlt | heq | hgt
  · rw [sortAndQuantize_of_le hlt.le, sortAndQuantize_of_lt hlt]
    exact ⟨sameRgb_refl _, sameRgb_refl _⟩
  · have hsame := quantize_sameRgb_of_enc565_eq (BitVec.toNat_inj.mp heq)
    rw [sortAndQuantize_of_le heq.le, sortAndQuantize_of_le heq.ge]
    exact ⟨hsame, sameRgb_symm hsame⟩
  · rw [sortAndQuantize_of_lt hgt, sortAndQuantize_of_le hgt.le]
    exact ⟨sameRgb_refl _, sameRgb_refl _⟩

theorem isQuantized_sortAndQuantize (a b : Color) :
    isQuantized (sortAndQuantize a b).low = true ∧ isQuantized (sortAndQuantize a b).high = true := by
  rcases sortAndQuantize_eq_or a b with heq | heq <;> rw [heq] <;>
    exact ⟨isQuantized_quantize _, isQuantized_quantize _⟩

/-- Settles O38: the two orders of the compare, and what a tie leaves equal. -/
theorem sortedPairsAreCanonical : Obligations.SortedPairsAreCanonical := by
  intro a b
  obtain ⟨hlow, hhigh⟩ := isQuantized_sortAndQuantize a b
  exact ⟨sortAndQuantize_of_le, sortAndQuantize_of_lt, hlow, hhigh, sortAndQuantize_ordered a b,
    sortAndQuantize_comm_sameRgb a b⟩

/-- One extrapolated channel as a natural number: the truncated difference stands for the clamp at 0 (41 R138). -/
theorem toNat_extrapolateChan (a b : Chan) :
    (extrapolateChan a b).toNat = min ((7 * a.toNat - 3 * b.toNat) / 4) 255 := by
  rw [extrapolateChan, clampChan, floorDiv4, Int.fdiv_eq_ediv_of_nonneg _ (by decide), BitVec.toNat_ofNat,
    Nat.mod_eq_of_lt (by omega)]
  omega

/-- Two equal channels stay where they are (41 R139, law E2). -/
theorem extrapolateChan_self (x : Chan) : extrapolateChan x x = x := by
  have hx := x.isLt
  rw [← BitVec.toNat_inj, toNat_extrapolateChan]
  omega

theorem extrapolateChan_le_self {a b : Chan} (h : a.toNat ≤ b.toNat) : (extrapolateChan a b).toNat ≤ a.toNat := by
  rw [toNat_extrapolateChan]
  omega

theorem self_le_extrapolateChan {a b : Chan} (h : a.toNat ≤ b.toNat) : b.toNat ≤ (extrapolateChan b a).toNat := by
  have hb := b.isLt
  rw [toNat_extrapolateChan]
  omega

theorem pushAway_of_sameRgb {a b : Color} (h : sameRgb a b = true) : pushAway a b = a := by
  obtain ⟨hr, hg, hb⟩ := sameRgb_iff.mp h
  simp only [pushAway, ← hr, ← hg, ← hb, extrapolateChan_self]

theorem extrapolate_of_sameRgb {a b : Color} (h : sameRgb a b = true) : extrapolate a b = (a, b) := by
  rw [extrapolate, pushAway_of_sameRgb h, pushAway_of_sameRgb (sameRgb_symm h)]

/-- Settles O39: each clause of one channel is read off the clamped quotient, and a Color is its channels. -/
theorem extrapolatePushesApart : Obligations.ExtrapolatePushesApart := by
  refine ⟨fun a b => ⟨?_, ?_, ?_, fun hle => ⟨extrapolateChan_le_self hle, self_le_extrapolateChan hle⟩⟩,
    fun a b => ⟨rfl, rfl, rfl, extrapolate_of_sameRgb⟩⟩ <;> rw [toNat_extrapolateChan] <;> omega

end Sys2Proof.Machine
end

section
/-! The extremes of a block channel by channel, and flat blocks (41 R140, R141). -/

namespace Sys2Proof.Machine

/-- The pixels of a block as a list and by number (00_scope R10). -/
theorem mem_toList_iff_get {P : Block} {c : Color} : c ∈ P.toList ↔ ∃ n : Fin 16, P.get n = c := by
  rw [Vector.mem_toList_iff, Vector.mem_iff_getElem]
  exact ⟨fun ⟨i, hi, hc⟩ => ⟨⟨i, hi⟩, hc⟩, fun ⟨n, hc⟩ => ⟨n, n.isLt, hc⟩⟩

theorem get_mem_toList (P : Block) (n : Fin 16) : P.get n ∈ P.toList := mem_toList_iff_get.mpr ⟨n, rfl⟩

theorem chanMin_eq_or (x y : Chan) : chanMin x y = x ∨ chanMin x y = y := by
  unfold chanMin
  split
  · exact .inr rfl
  · exact .inl rfl

theorem chanMax_eq_or (x y : Chan) : chanMax x y = x ∨ chanMax x y = y := by
  unfold chanMax
  split
  · exact .inr rfl
  · exact .inl rfl

theorem chanMin_le_right (x y : Chan) : chanMin x y ≤ y := by
  unfold chanMin
  split
  · exact BitVec.le_refl _
  · next hge => exact BitVec.not_lt.mp hge

theorem le_chanMax_right (x y : Chan) : y ≤ chanMax x y := by
  unfold chanMax
  split
  · exact BitVec.le_refl _
  · next hge => exact BitVec.not_lt.mp hge

/-- A fold of a selection ends at its start or at an element of the list. -/
theorem foldl_mem_cons {α : Type} {f : α → α → α} (hsel : ∀ x y, f x y = x ∨ f x y = y) (l : List α) (x : α) :
    l.foldl f x ∈ x :: l := by
  refine List.foldlRecOn (motive := (· ∈ x :: l)) l f List.mem_cons_self fun acc hacc y hy => ?_
  rcases hsel acc y with heq | heq <;> rw [heq]
  · exact hacc
  · exact List.mem_cons_of_mem x hy

/-- A fold that goes down at every step ends below its start and below every element. -/
theorem foldl_rel_of_mem_cons {α : Type} {f : α → α → α} {r : α → α → Prop} (hrefl : ∀ x, r x x)
    (htrans : ∀ x y z, r x y → r y z → r x z) (hleft : ∀ x y, r (f x y) x) (hright : ∀ x y, r (f x y) y)
    {l : List α} {x z : α} (hz : z ∈ x :: l) : r (l.foldl f x) z := by
  induction l generalizing x z with
  | nil => exact List.mem_singleton.mp hz ▸ hrefl x
  | cons y rest ih =>
    have hstep : r (rest.foldl f (f x y)) (f x y) := ih List.mem_cons_self
    rw [List.mem_cons, List.mem_cons] at hz
    rcases hz with rfl | rfl | hz
    · exact htrans _ _ _ hstep (hleft z y)
    · exact htrans _ _ _ hstep (hright x z)
    · exact ih (List.mem_cons_of_mem _ hz)

/-- The first pixel is one of the pixels, so a fold that starts there ends at some pixel's value. -/
theorem exists_get_eq_of_mem_cons {ch : Color → Chan} {P : Block} {x : Chan}
    (h : x ∈ ch P[0] :: P.toList.map ch) : ∃ n : Fin 16, ch (P.get n) = x := by
  rcases List.mem_cons.mp h with rfl | h
  · exact ⟨0, rfl⟩
  · obtain ⟨c, hc, rfl⟩ := List.mem_map.mp h
    obtain ⟨n, rfl⟩ := mem_toList_iff_get.mp hc
    exact ⟨n, rfl⟩

/-- What reads one channel of a Color: the componentwise extremes of Colors are extremes of its values. -/
def IsChannel (ch : Color → Chan) : Prop :=
  (∀ c d, ch (colorMin c d) = chanMin (ch c) (ch d)) ∧ ∀ c d, ch (colorMax c d) = chanMax (ch c) (ch d)

section Channel

variable {ch : Color → Chan} (hch : IsChannel ch) (P : Block)
include hch

/-- A channel of `mn` is the minimum of that channel's sixteen values (41 R140). -/
theorem IsChannel.blockMin_eq : ch (blockMin P) = (P.toList.map ch).foldl chanMin (ch P[0]) :=
  (List.foldl_map_hom fun c d => (hch.1 c d).symm).symm

theorem IsChannel.blockMax_eq : ch (blockMax P) = (P.toList.map ch).foldl chanMax (ch P[0]) :=
  (List.foldl_map_hom fun c d => (hch.2 c d).symm).symm

theorem IsChannel.blockMin_le (n : Fin 16) : ch (blockMin P) ≤ ch (P.get n) := by
  rw [hch.blockMin_eq]
  exact foldl_rel_of_mem_cons BitVec.le_refl (fun _ _ _ => BitVec.le_trans) chanMin_le_left chanMin_le_right
    (List.mem_cons_of_mem _ (List.mem_map_of_mem (get_mem_toList P n)))

theorem IsChannel.le_blockMax (n : Fin 16) : ch (P.get n) ≤ ch (blockMax P) := by
  rw [hch.blockMax_eq]
  exact foldl_rel_of_mem_cons (r := fun x y => y ≤ x) BitVec.le_refl (fun _ _ _ hxy hyz => BitVec.le_trans hyz hxy)
    le_chanMax_left le_chanMax_right (List.mem_cons_of_mem _ (List.mem_map_of_mem (get_mem_toList P n)))

theorem IsChannel.exists_get_eq_blockMin : ∃ n : Fin 16, ch (P.get n) = ch (blockMin P) :=
  exists_get_eq_of_mem_cons (hch.blockMin_eq P ▸ foldl_mem_cons chanMin_eq_or ..)

theorem IsChannel.exists_get_eq_blockMax : ∃ n : Fin 16, ch (P.get n) = ch (blockMax P) :=
  exists_get_eq_of_mem_cons (hch.blockMax_eq P ▸ foldl_mem_cons chanMax_eq_or ..)

/-- Where the extremes of a channel are equal, every pixel has that value. -/
theorem IsChannel.get_eq_blockMin (heq : ch (blockMin P) = ch (blockMax P)) (n : Fin 16) : ch (P.get n) = ch (blockMin P) :=
  BitVec.le_antisymm (heq ▸ hch.le_blockMax P n) (hch.blockMin_le P n)

/-- The extremes of a channel are equal exactly when all its values are. -/
theorem IsChannel.blockMin_eq_blockMax_iff :
    ch (blockMin P) = ch (blockMax P) ↔ ∀ n m : Fin 16, ch (P.get n) = ch (P.get m) := by
  constructor
  · intro heq n m
    rw [hch.get_eq_blockMin P heq n, hch.get_eq_blockMin P heq m]
  · intro hall
    obtain ⟨n, hn⟩ := hch.exists_get_eq_blockMin P
    obtain ⟨m, hm⟩ := hch.exists_get_eq_blockMax P
    rw [← hn, ← hm, hall n m]

end Channel

theorem isChannel_r : IsChannel Color.r := ⟨fun _ _ => rfl, fun _ _ => rfl⟩

theorem isChannel_g : IsChannel Color.g := ⟨fun _ _ => rfl, fun _ _ => rfl⟩

theorem isChannel_b : IsChannel Color.b := ⟨fun _ _ => rfl, fun _ _ => rfl⟩

theorem isChannel_a : IsChannel Color.a := ⟨fun _ _ => rfl, fun _ _ => rfl⟩

/-- A block is flat when all its pixels have the same R, G and B (41 R141). -/
theorem flat_iff (P : Block) : flat P = true ↔ ∀ n m : Fin 16, sameRgb (P.get n) (P.get m) = true := by
  simp only [flat, sameRgb_iff, isChannel_r.blockMin_eq_blockMax_iff, isChannel_g.blockMin_eq_blockMax_iff,
    isChannel_b.blockMin_eq_blockMax_iff, forall_and]

/-- Every pixel of a flat block has the R, G and B of `mn` (41 R141). -/
theorem sameRgb_blockMin_of_flat {P : Block} (hflat : flat P = true) {c : Color} (hc : c ∈ P.toList) :
    sameRgb c (blockMin P) = true := by
  obtain ⟨n, rfl⟩ := mem_toList_iff_get.mp hc
  obtain ⟨hr, hg, hb⟩ := sameRgb_iff.mp hflat
  exact sameRgb_iff.mpr
    ⟨isChannel_r.get_eq_blockMin P hr n, isChannel_g.get_eq_blockMin P hg n, isChannel_b.get_eq_blockMin P hb n⟩

/-- Settles O40: each channel's extremes bound it and are attained, so a block is flat when they coincide in R, G and B. -/
theorem extremesAndFlatness : Obligations.ExtremesAndFlatness := by
  refine fun P => ⟨fun ch hmem => ?_, flat_iff P⟩
  have hch : IsChannel ch := by
    revert ch
    simpa using ⟨isChannel_r, isChannel_g, isChannel_b, isChannel_a⟩
  exact ⟨fun n => ⟨hch.blockMin_le P n, hch.le_blockMax P n⟩, hch.exists_get_eq_blockMin P, hch.exists_get_eq_blockMax P⟩

end Sys2Proof.Machine
end

section
/-! The loop order of the pairs and the numbers of the candidates (41 R142 to R144, R146). -/

namespace Sys2Proof.Machine

/-- The pairs before those of the next element: `pidx` counted from a list one element longer (41 R144). -/
theorem pidx_succ (n i : Nat) (hi : i < n) : (i + 1) * (2 * (n + 1) - 1 - (i + 1)) / 2 = n + i * (2 * n - 1 - i) / 2 := by
  obtain ⟨k, rfl⟩ := Nat.exists_eq_add_of_lt hi
  have hprod : (i + 1) * (2 * (i + k + 1 + 1) - 1 - (i + 1)) = i * (2 * (i + k + 1) - 1 - i) + 2 * (i + k + 1) := by
    rw [show 2 * (i + k + 1 + 1) - 1 - (i + 1) = i + 2 * k + 2 by omega, show 2 * (i + k + 1) - 1 - i = i + 2 * k + 1 by omega]
    ring
  rw [hprod, Nat.add_mul_div_left _ _ Nat.two_pos, Nat.add_comm]

/-- The pair at positions `i < j` of a list of any length: all pairs of each earlier element come first (41 R143, R144). -/
theorem getElem?_pairsOf {α : Type} {l : List α} {n i j : Nat} {a b : α} (hlen : l.length = n) (hij : i < j)
    (ha : l[i]? = some a) (hb : l[j]? = some b) : (pairsOf l)[i * (2 * n - 1 - i) / 2 + (j - i - 1)]? = some (a, b) := by
  induction l generalizing n i j with
  | nil => cases hb
  | cons x rest ih =>
    subst hlen
    obtain ⟨j, rfl⟩ := Nat.exists_eq_add_one_of_ne_zero (Nat.ne_zero_of_lt hij)
    rw [List.getElem?_cons_succ] at hb
    obtain ⟨hj, -⟩ := List.getElem?_eq_some_iff.mp hb
    rw [pairsOf_cons]
    cases i with
    | zero =>
      obtain rfl : x = a := Option.some_inj.mp ha
      rw [List.getElem?_append_left (by simpa using hj)]
      simp [hb]
    | succ i =>
      have hij' : i < j := Nat.lt_of_succ_lt_succ hij
      rw [List.length_cons, pidx_succ _ _ (hij'.trans hj), Nat.add_sub_add_right, Nat.add_assoc,
        List.getElem?_append_right (by simp), List.length_map, Nat.add_sub_cancel_left]
      exact ih rfl hij' ha hb

/-- Settles O41: the count of pairs, and the general position at length sixteen. -/
theorem pairsStandInLoopOrder : Obligations.PairsStandInLoopOrder := by
  intro l hlen
  refine ⟨by rw [length_pairsOf, hlen]; rfl, fun i j hij hj => ?_⟩
  have ha : l[i]? = some l[i] := List.getElem?_eq_getElem _
  have hb : l[j]? = some l[j] := List.getElem?_eq_getElem _
  exact ⟨l[i], l[j], ha, hb, getElem?_pairsOf hlen hij ha hb⟩

/-- The pair of two pixels of a block, at its number (41 R144). -/
theorem getElem?_pairsOf_block (P : Block) {i j : Fin 16} (hij : i < j) :
    (pairsOf P.toList)[pidx i.val j.val]? = some (P.get i, P.get j) := by
  have hget : ∀ n : Fin 16, P.toList[n.val]? = some (P.get n) := fun n => by
    rw [Vector.getElem?_toList, Vector.getElem?_eq_getElem n.isLt]
    rfl
  exact getElem?_pairsOf Vector.length_toList hij (hget i) (hget j)

theorem getElem?_plainPairs (P : Block) {i j : Fin 16} (hij : i < j) :
    (plainPairs P)[pidx i.val j.val]? = some (sortAndQuantize (P.get i) (P.get j)) := by
  rw [plainPairs, List.getElem?_map, getElem?_pairsOf_block P hij, Option.map_some]

theorem getElem?_extrapolatedPairs (P : Block) {i j : Fin 16} (hij : i < j) :
    (extrapolatedPairs P)[pidx i.val j.val]? =
      some (sortAndQuantize (extrapolate (P.get i) (P.get j)).1 (extrapolate (P.get i) (P.get j)).2) := by
  rw [extrapolatedPairs, List.getElem?_map, getElem?_pairsOf_block P hij, Option.map_some]

section Lists

variable {P : Block} {q : BitVec 8}

/-- Quality 0, or a flat block: the baseline alone (41 R142, R143). -/
theorem buildEndpoints_of_baseline_only (h : q.toNat = 0 ∨ flat P = true) : buildEndpoints P q = [baseline P] := by
  rcases h with hq | hflat
  · simp [buildEndpoints, enabledPairs, qEff, hq]
  · rw [buildEndpoints, if_pos hflat]

theorem buildEndpoints_of_quality_one (hq : q.toNat = 1) (hflat : flat P = false) :
    buildEndpoints P q = baseline P :: plainPairs P := by
  simp [buildEndpoints, enabledPairs, qEff, Config.qSat, hq, hflat]

theorem buildEndpoints_of_two_le_quality (hq : 2 ≤ q.toNat) (hflat : flat P = false) :
    buildEndpoints P q = baseline P :: (plainPairs P ++ extrapolatedPairs P) := by
  simp [buildEndpoints, enabledPairs, qEff, Config.qSat, hq, hflat]

theorem pidx_lt_length_plainPairs (P : Block) {i j : Fin 16} (hij : i < j) : pidx i.val j.val < (plainPairs P).length :=
  (List.getElem?_eq_some_iff.mp (getElem?_plainPairs P hij)).1

/-- Candidate `1 + pidx(i, j)` is the plain pair of the pixels `i` and `j` (41 R143). -/
theorem getElem?_buildEndpoints_plain {i j : Fin 16} (hij : i < j) (hq : 1 ≤ q.toNat) (hflat : flat P = false) :
    (buildEndpoints P q)[1 + pidx i.val j.val]? = some (sortAndQuantize (P.get i) (P.get j)) := by
  rw [← getElem?_plainPairs P hij, Nat.add_comm]
  rcases hq.eq_or_lt with hq | hq
  · rw [buildEndpoints_of_quality_one hq.symm hflat, List.getElem?_cons_succ]
  · rw [buildEndpoints_of_two_le_quality hq hflat, List.getElem?_cons_succ,
      List.getElem?_append_left (pidx_lt_length_plainPairs P hij)]

/-- Candidate `121 + pidx(i, j)` is the extrapolated pair of the pixels `i` and `j` (41 R143). -/
theorem getElem?_buildEndpoints_extrapolated {i j : Fin 16} (hij : i < j) (hq : 2 ≤ q.toNat) (hflat : flat P = false) :
    (buildEndpoints P q)[121 + pidx i.val j.val]? =
      some (sortAndQuantize (extrapolate (P.get i) (P.get j)).1 (extrapolate (P.get i) (P.get j)).2) := by
  have hnum : 121 + pidx i.val j.val = (plainPairs P).length + pidx i.val j.val + 1 := by
    rw [length_plainPairs, Config.nPair]
    omega
  rw [← getElem?_extrapolatedPairs P hij, buildEndpoints_of_two_le_quality hq hflat, hnum, List.getElem?_cons_succ,
    List.getElem?_append_right (Nat.le_add_right ..), Nat.add_sub_cancel_left]

end Lists

/-- Settles O42: the list at each quality, its length, and the candidate at each number. -/
theorem candidatesAreNumbered : Obligations.CandidatesAreNumbered := by
  refine fun P q => ⟨rfl, fun h => ?_, fun hq hflat => ?_, fun hq hflat => ?_, fun i j hij hflat =>
    ⟨fun hq => getElem?_buildEndpoints_plain hij hq hflat, fun hq => getElem?_buildEndpoints_extrapolated hij hq hflat⟩⟩
  · rw [buildEndpoints_of_baseline_only h, List.length_singleton]
  · rw [buildEndpoints_of_quality_one hq hflat, List.length_cons, length_plainPairs, Config.nPair]
  · rw [buildEndpoints_of_two_le_quality hq hflat, List.length_cons, List.length_append, length_plainPairs,
      length_extrapolatedPairs, Config.nPair]

/-- A candidate after the baseline is the sorted pair of two pixels, or of two pixels pushed apart (41 R143). -/
theorem exists_of_mem_enabledPairs {P : Block} {q : Nat} {c : EndpointPair} (h : c ∈ enabledPairs P q) :
    ∃ a ∈ P.toList, ∃ b ∈ P.toList, c = sortAndQuantize a b ∨ c = sortAndQuantize (pushAway a b) (pushAway b a) := by
  rcases List.mem_append.mp h with h | h <;> split at h
  · obtain ⟨p, hp, rfl⟩ := List.mem_map.mp h
    obtain ⟨ha, hb⟩ := mem_of_mem_pairsOf hp
    exact ⟨p.1, ha, p.2, hb, .inl rfl⟩
  · cases h
  · obtain ⟨p, hp, rfl⟩ := List.mem_map.mp h
    obtain ⟨ha, hb⟩ := mem_of_mem_pairsOf hp
    exact ⟨p.1, ha, p.2, hb, .inr rfl⟩
  · cases h

/-- Both endpoints of every candidate are quantized Colors (41 R143, R146). -/
theorem exists_quantize_of_mem_buildEndpoints {P : Block} {q : BitVec 8} {c : EndpointPair} (h : c ∈ buildEndpoints P q) :
    ∃ a b, c = ⟨quantize a, quantize b⟩ := by
  have hsorted : ∀ x y, ∃ a b, sortAndQuantize x y = ⟨quantize a, quantize b⟩ := fun x y =>
    (sortAndQuantize_eq_or x y).elim (⟨x, y, ·⟩) (⟨y, x, ·⟩)
  rcases List.mem_cons.mp h with rfl | h
  · exact ⟨_, _, rfl⟩
  · split at h
    · cases h
    · obtain ⟨a, -, b, -, rfl | rfl⟩ := exists_of_mem_enabledPairs h <;> exact hsorted ..

/-- The range of a quantized Color (41 R146). -/
theorem quantize_le (c : Color) :
    (quantize c).r.toNat ≤ 248 ∧ (quantize c).g.toNat ≤ 252 ∧ (quantize c).b.toNat ≤ 248 ∧ (quantize c).a.toNat ≤ 252 := by
  have hr := c.r.isLt
  have hg := c.g.isLt
  have hb := c.b.isLt
  have ha := c.a.isLt
  rw [toNat_quantize_r, toNat_quantize_g, toNat_quantize_b, toNat_quantize_a]
  omega

/-- Settles O43: the endpoints are quantized Colors in the order of their encodings. -/
theorem everyCandidateIsQuantizedAndOrdered : Obligations.EveryCandidateIsQuantizedAndOrdered := by
  intro P q c hc
  have hordered : (enc565 c.low).toNat ≤ (enc565 c.high).toNat := buildEndpoints_ordered hc
  obtain ⟨a, b, rfl⟩ := exists_quantize_of_mem_buildEndpoints hc
  obtain ⟨har, hag, hab, haa⟩ := quantize_le a
  exact ⟨isQuantized_quantize a, isQuantized_quantize b, hordered, har, hag, hab, haa, quantize_le b⟩

end Sys2Proof.Machine
end

section
/-! What a block encode answers depends on R, G and B alone (41 R147). -/

namespace Sys2Proof.Machine

theorem sameRgb_congr {c c' d d' : Color} (hc : sameRgb c c' = true) (hd : sameRgb d d' = true) :
    sameRgb c d = sameRgb c' d' := by
  obtain ⟨hr, hg, hb⟩ := sameRgb_iff.mp hc
  obtain ⟨hr', hg', hb'⟩ := sameRgb_iff.mp hd
  simp only [sameRgb, hr, hg, hb, hr', hg', hb']

theorem colorMin_sameRgb {c c' d d' : Color} (hc : sameRgb c c' = true) (hd : sameRgb d d' = true) :
    sameRgb (colorMin c d) (colorMin c' d') = true := by
  obtain ⟨hr, hg, hb⟩ := sameRgb_iff.mp hc
  obtain ⟨hr', hg', hb'⟩ := sameRgb_iff.mp hd
  simp only [sameRgb_iff, colorMin, hr, hg, hb, hr', hg', hb', and_self]

theorem colorMax_sameRgb {c c' d d' : Color} (hc : sameRgb c c' = true) (hd : sameRgb d d' = true) :
    sameRgb (colorMax c d) (colorMax c' d') = true := by
  obtain ⟨hr, hg, hb⟩ := sameRgb_iff.mp hc
  obtain ⟨hr', hg', hb'⟩ := sameRgb_iff.mp hd
  simp only [sameRgb_iff, colorMax, hr, hg, hb, hr', hg', hb', and_self]

/-- Two blocks agree in R, G and B, pixel by pixel. -/
def BlocksSameRgb (P P' : Block) : Prop := List.Forall₂ (sameRgb · · = true) P.toList P'.toList

/-- Two Endpoint Pairs agree in R, G and B at both ends. -/
def PairSameRgb (p p' : EndpointPair) : Prop := sameRgb p.low p'.low = true ∧ sameRgb p.high p'.high = true

theorem blocksSameRgb_of_get {P P' : Block} (h : ∀ n : Fin 16, sameRgb (P.get n) (P'.get n) = true) : BlocksSameRgb P P' :=
  List.forall₂_of_length_eq_of_get (by simp) fun i hi _ => h ⟨i, by simpa using hi⟩

theorem blocksSameRgb_refl (P : Block) : BlocksSameRgb P P := List.forall₂_same.mpr fun c _ => sameRgb_refl c

theorem map_eq_map_of_forall₂ {α β : Type} {R : α → α → Prop} {f f' : α → β} {l l' : List α} (hl : List.Forall₂ R l l')
    (hf : ∀ x y, R x y → f x = f' y) : l.map f = l'.map f' :=
  List.forall₂_eq_eq_eq ▸ List.rel_map hf hl

/-- Pairs of related lists are related pairs. -/
theorem forall₂_pairsOf {α : Type} {R : α → α → Prop} {l l' : List α} (h : List.Forall₂ R l l') :
    List.Forall₂ (fun p p' => R p.1 p'.1 ∧ R p.2 p'.2) (pairsOf l) (pairsOf l') := by
  induction h with
  | nil => exact .nil
  | cons hx hrest ih => exact List.rel_append (List.rel_map (fun _ _ hy => ⟨hx, hy⟩) hrest) ih

section Score

variable {p p' : EndpointPair}

theorem getElem_candTable (p : EndpointPair) : ∀ (k : Nat) (hk : k < 4), (candTable p)[k] = blendColor (blendOf k) p.low p.high
  | 0, _ | 1, _ | 2, _ | 3, _ => rfl

/-- The nearest entry of a candidate's table does not depend on any alpha (42 R160, 43 R170). -/
theorem nearest_candTable_congr (hp : PairSameRgb p p') {c c' : Color} (hc : sameRgb c c' = true) :
    nearest (candTable p) c = nearest (candTable p') c' := by
  have hdist : ∀ k, distance c (blendColor (blendOf k) p.low p.high) = distance c' (blendColor (blendOf k) p'.low p'.high) :=
    fun k => distance_congr hc (blendColor_sameRgb _ hp.1 hp.2)
  simp only [nearest, getElem_candTable, hdist]

variable {P P' : Block}

theorem score_candTable_congr (hp : PairSameRgb p p') (hP : BlocksSameRgb P P') :
    score (candTable p) P = score (candTable p') P' := by
  have hminima : minima (candTable p) P = minima (candTable p') P' :=
    map_eq_map_of_forall₂ hP fun _ _ hc => congrArg Prod.fst (nearest_candTable_congr hp hc)
  rw [score, score, hminima]

/-- The stream is a fold over the indices of the pixels (44 R187). -/
theorem encodeIndices_eq_foldr_map (T : Table) (P : Block) :
    encodeIndices T P = (P.toList.map (indexOf T)).foldr pushIndex 0#32 := List.foldr_map.symm

theorem encodeIndices_candTable_congr (hp : PairSameRgb p p') (hP : BlocksSameRgb P P') :
    encodeIndices (candTable p) P = encodeIndices (candTable p') P' := by
  have hindices : P.toList.map (indexOf (candTable p)) = P'.toList.map (indexOf (candTable p')) :=
    map_eq_map_of_forall₂ hP fun _ _ hc => congrArg Prod.snd (nearest_candTable_congr hp hc)
  rw [encodeIndices_eq_foldr_map, encodeIndices_eq_foldr_map, hindices]

theorem blockWith_congr (hp : PairSameRgb p p') (hP : BlocksSameRgb P P') : blockWith p P = blockWith p' P' := by
  rw [blockWith, blockWith, pack, pack, encodeIndices_candTable_congr hp hP, enc565_congr hp.1, enc565_congr hp.2]

end Score

section Candidates

variable {P P' : Block}

theorem BlocksSameRgb.head (hP : BlocksSameRgb P P') : sameRgb P[0] P'[0] = true :=
  List.Forall₂.get hP (i := 0) (by simp) (by simp)

theorem blockMin_sameRgb (hP : BlocksSameRgb P P') : sameRgb (blockMin P) (blockMin P') = true :=
  List.rel_foldl (R := (sameRgb · · = true)) (P := (sameRgb · · = true)) (fun _ _ hacc _ _ hc => colorMin_sameRgb hacc hc)
    hP.head hP

theorem blockMax_sameRgb (hP : BlocksSameRgb P P') : sameRgb (blockMax P) (blockMax P') = true :=
  List.rel_foldl (R := (sameRgb · · = true)) (P := (sameRgb · · = true)) (fun _ _ hacc _ _ hc => colorMax_sameRgb hacc hc)
    hP.head hP

theorem flat_congr (hP : BlocksSameRgb P P') : flat P = flat P' := sameRgb_congr (blockMin_sameRgb hP) (blockMax_sameRgb hP)

theorem baseline_pairSameRgb (hP : BlocksSameRgb P P') : PairSameRgb (baseline P) (baseline P') :=
  ⟨quantize_sameRgb (blockMin_sameRgb hP), quantize_sameRgb (blockMax_sameRgb hP)⟩

theorem sortAndQuantize_pairSameRgb {a a' b b' : Color} (ha : sameRgb a a' = true) (hb : sameRgb b b' = true) :
    PairSameRgb (sortAndQuantize a b) (sortAndQuantize a' b') := by
  rw [sortAndQuantize, sortAndQuantize, enc565_congr ha, enc565_congr hb]
  split
  · exact ⟨quantize_sameRgb ha, quantize_sameRgb hb⟩
  · exact ⟨quantize_sameRgb hb, quantize_sameRgb ha⟩

theorem plainPairs_sameRgb (hP : BlocksSameRgb P P') : List.Forall₂ PairSameRgb (plainPairs P) (plainPairs P') :=
  List.rel_map (fun _ _ ⟨ha, hb⟩ => sortAndQuantize_pairSameRgb ha hb) (forall₂_pairsOf hP)

theorem extrapolatedPairs_sameRgb (hP : BlocksSameRgb P P') :
    List.Forall₂ PairSameRgb (extrapolatedPairs P) (extrapolatedPairs P') :=
  List.rel_map (fun _ _ ⟨ha, hb⟩ => sortAndQuantize_pairSameRgb (pushAway_sameRgb ha hb) (pushAway_sameRgb hb ha))
    (forall₂_pairsOf hP)

theorem enabledPairs_sameRgb (hP : BlocksSameRgb P P') (q : Nat) :
    List.Forall₂ PairSameRgb (enabledPairs P q) (enabledPairs P' q) := by
  refine List.rel_append ?_ ?_ <;> split
  · exact plainPairs_sameRgb hP
  · exact .nil
  · exact extrapolatedPairs_sameRgb hP
  · exact .nil

theorem buildEndpoints_sameRgb (hP : BlocksSameRgb P P') (q : BitVec 8) :
    List.Forall₂ PairSameRgb (buildEndpoints P q) (buildEndpoints P' q) := by
  refine .cons (baseline_pairSameRgb hP) ?_
  rw [flat_congr hP]
  split
  · exact .nil
  · exact enabledPairs_sameRgb hP _

end Candidates

theorem forall₂_getD {α : Type} {R : α → α → Prop} {l l' : List α} (h : List.Forall₂ R l l') {d d' : α} (hd : R d d') (k : Nat) :
    R (l.getD k d) (l'.getD k d') := by
  induction h generalizing k with
  | nil => exact hd
  | cons hx _ ih =>
    cases k with
    | zero => exact hx
    | succ k => exact ih k

/-- The same selection from candidates that agree in R, G and B (45 R200). -/
theorem encodeFrom_congr {P P' : Block} {cand cand' : List EndpointPair} (hP : BlocksSameRgb P P')
    (hcand : List.Forall₂ PairSameRgb cand cand') : encodeFrom cand P = encodeFrom cand' P' := by
  have hscores : scoresOf cand P = scoresOf cand' P' := map_eq_map_of_forall₂ hcand fun _ _ hp => score_candTable_congr hp hP
  have hblk : ∀ k, blockWith (cand.getD k (baseline P)) P = blockWith (cand'.getD k (baseline P')) P' := fun k =>
    blockWith_congr (forall₂_getD hcand (baseline_pairSameRgb hP) k) hP
  rw [encodeFrom, encodeFrom, encodedAt, encodedAt, hscores, hblk]

/-- Settles O45: the candidates of the two blocks agree in R, G and B one by one, and so do their scores and their packed blocks. -/
theorem alphaNeverMatters : Obligations.AlphaNeverMatters := by
  intro P P' q h
  have hP := blocksSameRgb_of_get h
  exact encodeFrom_congr hP (buildEndpoints_sameRgb hP q)

end Sys2Proof.Machine
end

section
/-! On a flat block every candidate ties with the baseline, so the flat test cannot be observed (41 R145). -/

namespace Sys2Proof.Machine

/-- A scan in which nothing is less keeps its winner (45 R196). -/
theorem selectFrom_of_le {best win k : Nat} {S : List Nat} (h : ∀ s ∈ S, best ≤ s) : selectFrom best win k S = win := by
  induction S generalizing k with
  | nil => rfl
  | cons s rest ih =>
    obtain ⟨hs, hrest⟩ := List.forall_mem_cons.mp h
    rw [selectFrom, if_neg (Nat.not_lt.mpr hs), ih hrest]

/-- Candidates that do not score better than the first add nothing to the answer (45 R196, R200). -/
theorem encodeFrom_cons_of_le {P : Block} {c : EndpointPair} {rest : List EndpointPair}
    (h : ∀ d ∈ rest, score (candTable c) P ≤ score (candTable d) P) : encodeFrom (c :: rest) P = encodeFrom [c] P := by
  have hwin : select (scoresOf (c :: rest) P) = 0 := selectFrom_of_le (by simpa [scoresOf] using h)
  rw [encodeFrom, hwin]
  rfl

/-- On a flat block every pair of candidates has the R, G and B of the baseline (41 R145). -/
theorem pairSameRgb_baseline_of_flat {P : Block} (hflat : flat P = true) {q : Nat} {c : EndpointPair}
    (hc : c ∈ enabledPairs P q) : PairSameRgb (baseline P) c := by
  have hlow : ∀ x ∈ P.toList, sameRgb (blockMin P) x = true := fun x hx => sameRgb_symm (sameRgb_blockMin_of_flat hflat hx)
  have hhigh : ∀ x ∈ P.toList, sameRgb (blockMax P) x = true := fun x hx => sameRgb_trans (sameRgb_symm hflat) (hlow x hx)
  obtain ⟨a, ha, b, hb, hsorted⟩ := exists_of_mem_enabledPairs hc
  have hab : sameRgb a b = true := sameRgb_trans (sameRgb_symm (hlow a ha)) (hlow b hb)
  rw [pushAway_of_sameRgb hab, pushAway_of_sameRgb (sameRgb_symm hab), or_self] at hsorted
  rw [hsorted]
  rcases sortAndQuantize_eq_or a b with heq | heq <;> rw [heq]
  · exact ⟨quantize_sameRgb (hlow a ha), quantize_sameRgb (hhigh b hb)⟩
  · exact ⟨quantize_sameRgb (hlow b hb), quantize_sameRgb (hhigh a ha)⟩

/-- A machine that omits the flat test answers the same (41 R145). -/
theorem encodeFrom_buildEndpointsAlways (P : Block) (q : BitVec 8) :
    encodeFrom (buildEndpointsAlways P q) P = encodeBlock P q := by
  rw [encodeBlock, buildEndpoints, buildEndpointsAlways]
  split
  · next hflat =>
    exact encodeFrom_cons_of_le fun c hc =>
      (score_candTable_congr (pairSameRgb_baseline_of_flat hflat hc) (blocksSameRgb_refl P)).le
  · rfl

/-- Settles O44: a test that says flat says so of a flat block, and one that does not is no test. -/
theorem flatTestCannotBeObserved : Obligations.FlatTestCannotBeObserved := by
  refine fun P q => ⟨encodeFrom_buildEndpointsAlways P q, fun test htest => ?_⟩
  cases test with
  | true => rw [encodeBlock, buildEndpoints, htest rfl]
  | false => exact encodeFrom_buildEndpointsAlways P q

end Sys2Proof.Machine
end

section
/-! The entries of the interpolation table as weighted means of the endpoints, channel by channel (42 R160, R162). -/

namespace Sys2Proof.Machine

/-- The coefficients of every entry are weights out of the divisor (30_encoding R86). -/
theorem blendOf_weights (k : Fin 4) : (blendOf k).2 + (blendOf k).1 = Config.blendDiv := by
  decide +revert

/-- A weighted mean, rounded down, lies between the two values. -/
theorem weightedMean_between {wl wh d : Nat} (hd : 0 < d) (hw : wl + wh = d) (x y : Nat) :
    min x y ≤ (wl * x + wh * y) / d ∧ (wl * x + wh * y) / d ≤ max x y := by
  subst hw
  constructor
  · rw [Nat.le_div_iff_mul_le hd, mul_comm, add_mul]
    gcongr
    · exact min_le_left x y
    · exact min_le_right x y
  · apply Nat.div_le_of_le_mul
    rw [add_mul]
    gcongr
    · exact le_max_left x y
    · exact le_max_right x y

section Weights
variable {w : Nat × Nat} (hw : w.2 + w.1 = Config.blendDiv)
include hw

/-- Where the coefficients are weights out of 3, the blended channel is the integer quotient itself: it fits a byte (42 R160). -/
theorem blendChan_toNat (x y : Chan) : (blendChan w x y).toNat = (w.2 * x.toNat + w.1 * y.toNat) / Config.blendDiv := by
  have hle := (weightedMean_between (by decide) hw x.toNat y.toNat).2
  rw [blendChan, BitVec.toNat_ofNat, Nat.mod_eq_of_lt (hle.trans_lt (max_lt x.isLt y.isLt))]

/-- A blended channel lies between the channels it is blended from (42 R162). -/
theorem blendChan_between (x y : Chan) :
    min x.toNat y.toNat ≤ (blendChan w x y).toNat ∧ (blendChan w x y).toNat ≤ max x.toNat y.toNat := by
  rw [blendChan_toNat hw]
  exact weightedMean_between (by decide) hw x.toNat y.toNat

end Weights

/-- Every channel of a table entry, alpha included, is the blend of that channel of the endpoints (42 R160). -/
theorem channel_blendColor {ch : Color → Chan} (hch : ch ∈ [Color.r, Color.g, Color.b, Color.a]) (w : Nat × Nat) (low high : Color) :
    ch (blendColor w low high) = blendChan w (ch low) (ch high) := by
  simp only [List.mem_cons, List.not_mem_nil, or_false] at hch
  rcases hch with rfl | rfl | rfl | rfl <;> rfl

/-- Entry `k` of the table is the blend with the coefficients `k` (42 R160). -/
theorem buildTable_get (low high : Color) (k : Fin 4) : (buildTable low high).get k = blendColor (blendOf k) low high :=
  getElem_candTable ⟨low, high⟩ k k.isLt

/-- All the weight on `high` gives `high` (42 R160). -/
theorem blendColor_high (low high : Color) : blendColor (3, 0) low high = high := by
  have hchan : ∀ x y : Chan, blendChan (3, 0) x y = y := fun x y =>
    BitVec.eq_of_toNat_eq (by rw [blendChan_toNat rfl]; simp [Config.blendDiv])
  simp only [blendColor, hchan]

/-- All the weight on `low` gives `low` (42 R160). -/
theorem blendColor_low (low high : Color) : blendColor (0, 3) low high = low := by
  have hchan : ∀ x y : Chan, blendChan (0, 3) x y = x := fun x y =>
    BitVec.eq_of_toNat_eq (by rw [blendChan_toNat rfl]; simp [Config.blendDiv])
  simp only [blendColor, hchan]

/-- Settles O46: every entry is a mean of the endpoints with weights out of 3, so it is the integer quotient and between them. -/
theorem tableEntriesAreTheBlends : Obligations.TableEntriesAreTheBlends := by
  intro low high
  simp only [buildTable_get]
  refine ⟨blendColor_high low high, blendColor_low low high, fun ch hch => ?_⟩
  simp only [channel_blendColor hch]
  refine ⟨?_, ?_, fun k => blendChan_between (blendOf_weights k) (ch low) (ch high)⟩
  · rw [blendChan_toNat (blendOf_weights 2)]
    simp [blendOf, Config.blend, Config.blendDiv]
  · rw [blendChan_toNat (blendOf_weights 3)]
    simp [blendOf, Config.blend, Config.blendDiv]

end Sys2Proof.Machine
end

section
/-! The distance of two Colors as a sum of squared signed differences (43 R170). -/

namespace Sys2Proof.Machine

theorem chanDiff_comm (x y : Chan) : chanDiff x y = chanDiff y x := Nat.add_comm ..

theorem chanDiff_eq_zero_iff {x y : Chan} : chanDiff x y = 0 ↔ x = y := by
  rw [← BitVec.toNat_inj, chanDiff]
  omega

/-- The magnitude is that of the signed difference, so the squares agree (43 R170). -/
theorem chanDiff_sq_cast (x y : Chan) : ((chanDiff x y ^ 2 : Nat) : Int) = ((x.toNat : Int) - y.toNat) ^ 2 := by
  have habs : chanDiff x y = ((x.toNat : Int) - y.toNat).natAbs := by
    unfold chanDiff
    omega
  rw [habs, Nat.cast_pow, Int.natAbs_sq]

theorem distance_comm (a b : Color) : distance a b = distance b a := by
  simp only [distance, chanDiff_comm b.r, chanDiff_comm b.g, chanDiff_comm b.b]

theorem distance_eq_zero_iff {a b : Color} : distance a b = 0 ↔ sameRgb a b = true := by
  simp only [distance, Nat.add_eq_zero_iff, pow_eq_zero_iff two_ne_zero, chanDiff_eq_zero_iff, sameRgb_iff, and_assoc]

/-- Settles O47: channel by channel, the magnitude squared is the signed difference squared, and 0 only on equal channels. -/
theorem distanceIsTheSquaredDifference : Obligations.DistanceIsTheSquaredDifference := by
  refine fun a b => ⟨?_, distance_le a b, distance_comm a b, distance_eq_zero_iff⟩
  rw [distance, Nat.cast_add, Nat.cast_add, chanDiff_sq_cast, chanDiff_sq_cast, chanDiff_sq_cast]

end Sys2Proof.Machine
end

section
/-! The nearest table entry as a lexicographic minimum of distance and index (43 R171, 44 R186). -/

namespace Sys2Proof.Machine

/-- What the comparators of 43 R171 order: the distance first, then the index. -/
def Nearest.key (x : Nearest) : ℕ ×ₗ Fin 4 := toLex (x.1, x.2.toFin)

theorem Nearest.key_injective : Function.Injective Nearest.key := by
  rintro ⟨d, t⟩ ⟨d', t'⟩ h
  obtain ⟨hd, ht⟩ := Prod.ext_iff.mp (toLex.injective h)
  exact Prod.ext hd (BitVec.eq_of_toFin_eq ht)

theorem Nearest.key_le_iff {x y : Nearest} : x.key ≤ y.key ↔ x.1 < y.1 ∨ x.1 = y.1 ∧ x.2 ≤ y.2 := Prod.Lex.toLex_le_toLex

theorem Nearest.key_lt_iff {x y : Nearest} : x.key < y.key ↔ x.1 < y.1 ∨ x.1 = y.1 ∧ x.2 < y.2 := Prod.Lex.toLex_lt_toLex

/-- A comparator answers the lexicographically smaller of its inputs (43 R171). -/
@[simp] theorem key_nearestNode (x y : Nearest) : (nearestNode x y).key = min x.key y.key := by
  rw [nearestNode]
  split
  · next hlt => exact (min_eq_right (Nearest.key_lt_iff.mpr hlt).le).symm
  · next hge => exact (min_eq_left (not_lt.mp (mt Nearest.key_lt_iff.mp hge))).symm

/-- A step of the scan is a comparator where the new index is not below the one it holds (43 R171). -/
theorem nearestStep_eq_nearestNode {best : Nearest} {t : BitVec 2} (h : best.2 ≤ t) (d : Nat) :
    nearestStep best d t = nearestNode best (d, t) := by
  have hnot : ¬ (d = best.1 ∧ t < best.2) := fun hlt => BitVec.not_lt.mpr h hlt.2
  simp only [nearestStep, nearestNode, hnot, or_false]

/-- The index held never passes the number of the step (43 R171). -/
theorem nearestStep_snd_le {best : Nearest} {t : BitVec 2} (h : best.2 ≤ t) (d : Nat) : (nearestStep best d t).2 ≤ t := by
  unfold nearestStep
  split
  · exact BitVec.le_refl t
  · exact h

/-- The distance to entry `k` with its index: the leaves of the comparison tree (43 R171). -/
def tableEntry (T : Table) (c : Color) (k : Fin 4) : Nearest := (distance c (T.get k), ⟨k⟩)

/-- The scan is the tree of comparators that leans to the left (43 R171). -/
theorem nearest_eq_nearestNode (T : Table) (c : Color) :
    nearest T c = nearestNode (nearestNode (nearestNode (tableEntry T c 0) (tableEntry T c 1)) (tableEntry T c 2))
      (tableEntry T c 3) := by
  have h1 : ∀ d : Nat, (nearestStep (d, 0#2) (distance c T[1]) 1#2).2 ≤ 2#2 := fun d =>
    BitVec.le_trans (nearestStep_snd_le (by decide : 0#2 ≤ 1#2) _) (by decide)
  have h2 := nearestStep_snd_le (h1 (distance c T[0])) (distance c T[2])
  rw [nearest, nearestStep_eq_nearestNode (BitVec.le_trans h2 (by decide)), nearestStep_eq_nearestNode (h1 _),
    nearestStep_eq_nearestNode (by decide : 0#2 ≤ 1#2)]
  rfl

/-- `nearest` answers the lexicographic minimum of the four entries (43 R171). -/
theorem key_nearest (T : Table) (c : Color) :
    (nearest T c).key =
      min (min (min (tableEntry T c 0).key (tableEntry T c 1).key) (tableEntry T c 2).key) (tableEntry T c 3).key := by
  simp only [nearest_eq_nearestNode, key_nearestNode]

/-- The minimum does not depend on how the comparators are grouped (43 R171). -/
theorem nearestTree_eq_nearest (T : Table) (c : Color) : nearestTree T c = nearest T c := by
  have hleaves : nearestTree T c =
      nearestNode (nearestNode (tableEntry T c 0) (tableEntry T c 1)) (nearestNode (tableEntry T c 2) (tableEntry T c 3)) := rfl
  apply Nearest.key_injective
  simp only [hleaves, key_nearest, key_nearestNode, min_assoc]

theorem key_nearest_le (T : Table) (c : Color) (k : Fin 4) : (nearest T c).key ≤ (tableEntry T c k).key := by
  rw [key_nearest]
  fin_cases k <;> simp

/-- A distance of the table with an index at which it is attained. -/
def IsTableEntry (T : Table) (c : Color) (x : Nearest) : Prop := x.1 = distance c (T.get x.2.toFin)

theorem isTableEntry_tableEntry (T : Table) (c : Color) (k : Fin 4) : IsTableEntry T c (tableEntry T c k) := rfl

/-- A comparator answers one of its inputs (43 R171). -/
theorem IsTableEntry.nearestNode {T : Table} {c : Color} {x y : Nearest} (hx : IsTableEntry T c x) (hy : IsTableEntry T c y) :
    IsTableEntry T c (nearestNode x y) := iteInduction (fun _ => hy) fun _ => hx

/-- The distance `nearest` answers is attained at the index it answers (43 R171). -/
theorem isTableEntry_nearest (T : Table) (c : Color) : IsTableEntry T c (nearest T c) := by
  have hentry := isTableEntry_tableEntry T c
  rw [nearest_eq_nearestNode]
  exact (((hentry 0).nearestNode (hentry 1)).nearestNode (hentry 2)).nearestNode (hentry 3)

/-- Settles O48: `nearest` is the lexicographic minimum of distance and index, however the comparators are grouped. -/
theorem nearestIsTheLowestMinimum : Obligations.NearestIsTheLowestMinimum := by
  intro T c
  have hle : ∀ k : Fin 4, (nearest T c).1 < distance c (T.get k) ∨
      (nearest T c).1 = distance c (T.get k) ∧ (nearest T c).2.toNat ≤ k := fun k => Nearest.key_le_iff.mp (key_nearest_le T c k)
  refine ⟨fun k => ?_, isTableEntry_nearest T c, fun k hk => ?_, rfl, nearestTree_eq_nearest T c⟩
  · exact (hle k).elim le_of_lt fun heq => heq.1.le
  · exact (hle k).resolve_right fun heq => hk.not_ge heq.2

end Sys2Proof.Machine
end

section
/-! The score of one table: the largest minimum, equal minima, and the order of the pixels (43 R174, R176, R177). -/

namespace Sys2Proof.Machine

theorem maxOf_cons (m : Nat) (ms : List Nat) : maxOf (m :: ms) = ms.foldl max m := by
  rw [maxOf, List.foldl_cons, Nat.zero_max]

/-- The largest of a list that is not empty is one of its elements (43 R174). -/
theorem maxOf_mem {ms : List Nat} (h : ms ≠ []) : maxOf ms ∈ ms := by
  cases ms with
  | nil => exact absurd rfl h
  | cons m rest => exact maxOf_cons m rest ▸ foldl_mem_cons (fun x y => max_choice x y) rest m

/-- The largest of a list is at least each of its elements (43 R174). -/
theorem le_maxOf {ms : List Nat} {m : Nat} (h : m ∈ ms) : m ≤ maxOf ms :=
  foldl_rel_of_mem_cons (r := (· ≥ ·)) le_refl (fun _ _ _ => ge_trans) le_max_left le_max_right (List.mem_cons_of_mem 0 h)

theorem maxOf_replicate {n : Nat} (hn : n ≠ 0) (m : Nat) : maxOf (List.replicate n m) = m :=
  List.eq_of_mem_replicate (maxOf_mem (by simpa using hn))

theorem minima_ne_nil (T : Table) (P : Block) : minima T P ≠ [] :=
  List.ne_nil_of_length_eq_add_one (minima_length T P)

/-- The sum and the maximum of the minima do not depend on their order (43 R177). -/
theorem score_eq_of_perm (T : Table) {P P' : Block} (h : P.toList.Perm P'.toList) : score T P = score T P' := by
  have hminima : (minima T P).Perm (minima T P') := h.map _
  have hmax : maxOf (minima T P) = maxOf (minima T P') := hminima.foldl_eq 0
  rw [score, score, hminima.sum_eq, hmax]

/-- Where every pixel has the same minimum, the score is 32 times that (43 R174, R175). -/
theorem score_of_forall_nearest_eq {T : Table} {P : Block} {m : Nat} (h : ∀ c ∈ P.toList, (nearest T c).1 = m) :
    score T P = 32 * m := by
  have hminima : minima T P = List.replicate 16 m := by
    rw [List.eq_replicate_iff]
    exact ⟨minima_length T P, by simpa [minima] using h⟩
  rw [score, hminima, maxOf_replicate (by decide), List.sum_replicate_nat, Config.penaltyW]
  omega

/-- White pixels on a black table attain the bound (43 R176). -/
theorem score_black_white :
    score (Vector.replicate 4 ⟨0, 0, 0, 0⟩) (Vector.replicate 16 ⟨255, 255, 255, 255⟩) = 6242400 := by
  refine score_of_forall_nearest_eq (m := 195075) fun c hc => ?_
  rw [Vector.toList_replicate] at hc
  rw [List.eq_of_mem_replicate hc]
  rfl

/-- Settles O49: the maximum is one of the minima, and neither it nor the sum depends on their order. -/
theorem scoreIsBoundedAndOrderFree : Obligations.ScoreIsBoundedAndOrderFree := by
  refine ⟨fun T P => ⟨⟨maxOf (minima T P), maxOf_mem (minima_ne_nil T P), fun d => le_maxOf, rfl⟩, score_le_maxScore T P⟩,
    score_black_white, fun T P P' => score_eq_of_perm T⟩

end Sys2Proof.Machine
end

section
/-! Blocks of one colour: both endpoints are that colour quantized and no pixel needs an index (43 R175, 46 R224). -/

namespace Sys2Proof.Machine

/-- Blending a Color with itself gives it back (42 R162). -/
theorem blendColor_self {w : Nat × Nat} (hw : w.2 + w.1 = Config.blendDiv) (c : Color) : blendColor w c c = c := by
  have hchan : ∀ x : Chan, blendChan w x x = x := fun x => by
    obtain ⟨hmin, hmax⟩ := blendChan_between hw x x
    rw [min_self] at hmin
    rw [max_self] at hmax
    exact BitVec.eq_of_toNat_eq (hmax.antisymm hmin)
  simp only [blendColor, hchan]

/-- The table of two equal endpoints holds that Color four times (42 R162). -/
theorem candTable_self (c : Color) : candTable ⟨c, c⟩ = Vector.replicate 4 c := by
  ext k hk : 1
  rw [getElem_candTable, blendColor_self (blendOf_weights ⟨k, hk⟩), Vector.getElem_replicate]

/-- Four equal entries: the first is taken (43 R171). -/
theorem nearest_replicate (c d : Color) : nearest (Vector.replicate 4 d) c = (distance c d, 0#2) := by
  simp [nearest, nearestStep]

/-- Where every pixel takes entry 0, the index stream is 0 (44 R187). -/
theorem encodeIndices_of_forall_eq_zero {T : Table} {P : Block} (h : ∀ c ∈ P.toList, indexOf T c = 0#2) :
    encodeIndices T P = 0#32 := by
  have hindices : P.toList.map (indexOf T) = List.replicate 16 0#2 := by
    rw [List.eq_replicate_iff]
    simpa using h
  rw [encodeIndices_eq_foldr_map, hindices]
  rfl

section OneColour

variable {P : Block} {c : Color} (h : ∀ n : Fin 16, sameRgb (P.get n) c = true)
include h

theorem sameRgb_of_mem_toList {x : Color} (hx : x ∈ P.toList) : sameRgb x c = true := by
  obtain ⟨n, rfl⟩ := mem_toList_iff_get.mp hx
  exact h n

theorem flat_of_forall_sameRgb : flat P = true :=
  (flat_iff P).mpr fun n m => sameRgb_trans (h n) (sameRgb_symm (h m))

/-- The extremes of a block of one colour are that colour (41 R140). -/
theorem baseline_pairSameRgb_of_forall_sameRgb : PairSameRgb (baseline P) ⟨quantize c, quantize c⟩ := by
  have hflat := flat_of_forall_sameRgb h
  have hmin : sameRgb (blockMin P) c = true :=
    sameRgb_trans (sameRgb_symm (sameRgb_blockMin_of_flat hflat (get_mem_toList P 0))) (h 0)
  exact ⟨quantize_sameRgb hmin, quantize_sameRgb (sameRgb_trans (sameRgb_symm hflat) hmin)⟩

/-- At every quality the block is encoded as from one candidate, its colour quantized at both ends (41 R145). -/
theorem encodeBlock_of_forall_sameRgb (q : BitVec 8) : encodeBlock P q = encodeFrom [⟨quantize c, quantize c⟩] P := by
  rw [encodeBlock, buildEndpoints_of_baseline_only (.inr (flat_of_forall_sameRgb h))]
  exact encodeFrom_congr (blocksSameRgb_refl P) (.cons (baseline_pairSameRgb_of_forall_sameRgb h) .nil)

/-- A table of one Color scores 32 times its distance from the colour of the block (43 R175). -/
theorem score_replicate_of_forall_sameRgb (d : Color) : score (Vector.replicate 4 d) P = 32 * distance c d :=
  score_of_forall_nearest_eq fun x hx => by
    rw [nearest_replicate, distance_congr (sameRgb_of_mem_toList h hx) (sameRgb_refl d)]

end OneColour

/-- Settles O56: the one candidate's table holds one Color, so every index is 0 and every pixel is at the same distance. -/
theorem flatBlockEncodesItsColour : Obligations.FlatBlockEncodesItsColour := by
  intro P c q h
  have hindices : encodeIndices (Vector.replicate 4 (quantize c)) P = 0#32 :=
    encodeIndices_of_forall_eq_zero fun x _ => congrArg Prod.snd (nearest_replicate x (quantize c))
  have hanswer : encodeFrom [⟨quantize c, quantize c⟩] P =
      ⟨blockWith ⟨quantize c, quantize c⟩ P, score (candTable ⟨quantize c, quantize c⟩) P, 0⟩ := rfl
  rw [encodeBlock_of_forall_sameRgb h, hanswer, blockWith, candTable_self, hindices, pack, enc565_quantize,
    score_replicate_of_forall_sameRgb h]

end Sys2Proof.Machine
end

section
/-! The first minimum of a score list, and what more candidates can change (45 R196, R202, 43 R178). -/

namespace Sys2Proof.Machine

/-- `m` is the least score and `win` the least number that has it (45 R196). -/
structure FirstMin (S : List Nat) (win m : Nat) : Prop where
  attained : S[win]? = some m
  least : ∀ s ∈ S, m ≤ s
  first : ∀ k s : Nat, k < win → S[k]? = some s → m < s

theorem FirstMin.win_lt {S : List Nat} {win m : Nat} (h : FirstMin S win m) : win < S.length :=
  (List.getElem?_eq_some_iff.mp h.attained).1

/-- A further score that is not less changes nothing (45 R196). -/
theorem FirstMin.append_of_le {S : List Nat} {win m s : Nat} (h : FirstMin S win m) (hs : m ≤ s) : FirstMin (S ++ [s]) win m where
  attained := (List.getElem?_append_left h.win_lt).trans h.attained
  least := by simpa [or_imp, forall_and] using ⟨h.least, hs⟩
  first k s' hk hs' := h.first k s' hk (List.getElem?_append_left (hk.trans h.win_lt) ▸ hs')

/-- A further score that is strictly less is the new first minimum (45 R196). -/
theorem FirstMin.append_of_lt {S : List Nat} {win m s : Nat} (h : FirstMin S win m) (hs : s < m) :
    FirstMin (S ++ [s]) S.length s where
  attained := List.getElem?_concat_length
  least := by simpa [or_imp, forall_and] using fun s' hs' => hs.le.trans (h.least s' hs')
  first k s' hk hs' := hs.trans_le (h.least s' (List.mem_of_getElem? (List.getElem?_append_left hk ▸ hs')))

/-- The scan holds the first minimum of what it has read (45 R196). -/
theorem FirstMin.selectFrom {S : List Nat} {win m : Nat} (h : FirstMin S win m) (rest : List Nat) :
    ∃ m', FirstMin (S ++ rest) (selectFrom m win S.length rest) m' := by
  induction rest generalizing S win m with
  | nil => exact ⟨m, by rwa [List.append_nil]⟩
  | cons s rest ih =>
    have hlen : S.length + 1 = (S ++ [s]).length := by rw [List.length_append, List.length_singleton]
    rw [Machine.selectFrom, List.append_cons, hlen]
    split
    · next hlt => exact ih (h.append_of_lt hlt)
    · next hge => exact ih (h.append_of_le (Nat.le_of_not_lt hge))

/-- `select` answers the first minimum of every list that is not empty (45 R196). -/
theorem exists_firstMin_select {S : List Nat} (h : S ≠ []) : ∃ m, FirstMin S (select S) m := by
  cases S with
  | nil => exact absurd rfl h
  | cons s rest =>
    have hfirst : FirstMin [s] 0 s := ⟨rfl, by simp, fun _ _ hk => absurd hk (Nat.not_lt_zero _)⟩
    exact hfirst.selectFrom rest

/-- An element of a list stands at the same place of every list it begins. -/
theorem getElem?_of_prefix {α : Type} {l l' : List α} (h : l <+: l') {k : Nat} {x : α} (hx : l[k]? = some x) :
    l'[k]? = some x := by
  obtain ⟨hlt, rfl⟩ := List.getElem?_eq_some_iff.mp hx
  exact List.prefix_iff_getElem?.mp h k hlt

section Prefix

variable {S S' : List Nat} {win win' m m' : Nat} (h : FirstMin S win m) (h' : FirstMin S' win' m') (hpre : S <+: S')
include h h' hpre

/-- More scores never raise the minimum (45 R202). -/
theorem FirstMin.le_of_prefix : m' ≤ m := h'.least m (List.mem_of_getElem? (getElem?_of_prefix hpre h.attained))

/-- More scores change the winner only for a strictly smaller score (45 R202). -/
theorem FirstMin.win_eq_or_lt_of_prefix : win' = win ∨ m' < m := by
  rcases lt_trichotomy win' win with hlt | heq | hgt
  · obtain ⟨x, hx⟩ : ∃ x, S[win']? = some x := ⟨_, List.getElem?_eq_getElem (hlt.trans h.win_lt)⟩
    obtain rfl : m' = x := Option.some_inj.mp (h'.attained.symm.trans (getElem?_of_prefix hpre hx))
    exact absurd (h.le_of_prefix h' hpre) (Nat.not_le.mpr (h.first _ _ hlt hx))
  · exact .inl heq
  · exact .inr (h'.first win m hgt (getElem?_of_prefix hpre h.attained))

end Prefix

/-- The winner and the score answered are the first minimum of the candidates' scores (45 R200). -/
theorem firstMin_encodeBlock (P : Block) (q : BitVec 8) :
    FirstMin (scoresOf (buildEndpoints P q) P) (encodeBlock P q).win (encodeBlock P q).sc := by
  obtain ⟨m, hm⟩ := exists_firstMin_select (scoresOf_buildEndpoints_ne_nil P q)
  have hsc : (encodeBlock P q).sc = m := by
    rw [encodeBlock, encodeFrom, encodedAt]
    simp only [List.getD_eq_getElem?_getD, hm.attained, Option.getD_some]
  exact hsc ▸ hm

/-- A higher effective quality appends candidates (41 R142, R143). -/
theorem enabledPairs_prefix (P : Block) {q q' : Nat} (h : q ≤ q') : enabledPairs P q <+: enabledPairs P q' := by
  rw [enabledPairs, enabledPairs]
  by_cases h2 : 2 ≤ q
  · rw [if_pos h2, if_pos (h2.trans h), if_pos (by omega), if_pos (by omega)]
  · rw [if_neg h2, List.append_nil]
    split
    · next h1 => exact if_pos (h1.trans h) ▸ List.prefix_append ..
    · exact List.nil_prefix

theorem buildEndpoints_prefix (P : Block) {q q' : BitVec 8} (h : q.toNat ≤ q'.toNat) :
    buildEndpoints P q <+: buildEndpoints P q' := by
  rw [buildEndpoints, buildEndpoints, List.prefix_cons_inj]
  split
  · exact List.prefix_rfl
  · exact enabledPairs_prefix P (min_le_min_right _ h)

/-- Settles O57: the baseline is a candidate at every quality, and a higher quality only appends to the scores. -/
theorem higherQualityNeverScoresWorse : Obligations.HigherQualityNeverScoresWorse := by
  intro P q q'
  have hfirst := firstMin_encodeBlock P q
  refine ⟨hfirst.least _ List.mem_cons_self, fun hq => ?_⟩
  have hfirst' := firstMin_encodeBlock P q'
  have hcand := buildEndpoints_prefix P hq
  have hscores : scoresOf (buildEndpoints P q) P <+: scoresOf (buildEndpoints P q') P := hcand.map _
  exact ⟨hcand, hfirst.le_of_prefix hfirst' hscores, hfirst.win_eq_or_lt_of_prefix hfirst' hscores⟩

end Sys2Proof.Machine
end

section
/-! The two-bit fields of the index stream (44 R187, R85). -/

namespace Sys2Proof.Machine

/-- The newest index takes the two lowest bits (44 R187). -/
theorem extractLsb'_pushIndex_zero (k : BitVec 2) (acc : Word) : (pushIndex k acc).extractLsb' 0 2 = k := by
  ext i hi
  have hword : i < 32 := by omega
  simp [pushIndex, BitVec.getLsbD_eq_getElem, hi, hword]

theorem getLsbD_pushIndex_add_two (k : BitVec 2) (acc : Word) {n : Nat} (hn : n + 2 < 32) :
    (pushIndex k acc).getLsbD (n + 2) = acc.getLsbD n := by
  have hk : k.getLsbD (n + 2) = false := BitVec.getLsbD_of_ge k _ (Nat.le_add_left ..)
  rw [pushIndex, BitVec.getLsbD_or, BitVec.getLsbD_shiftLeft, BitVec.getLsbD_setWidth, hk]
  simp [hn]

/-- The fields pushed before move up by two bits, as long as they stay inside the word (44 R187). -/
theorem extractLsb'_pushIndex_add_two (k : BitVec 2) (acc : Word) {j : Nat} (hj : j + 2 ≤ 30) :
    (pushIndex k acc).extractLsb' (j + 2) 2 = acc.extractLsb' j 2 := by
  ext i hi
  rw [BitVec.getElem_extractLsb', BitVec.getElem_extractLsb', Nat.add_right_comm]
  exact getLsbD_pushIndex_add_two k acc (by omega)

/-- The first sixteen indices of any list stand in the word, the first of them lowest (R85). -/
theorem extractLsb'_foldr_pushIndex {l : List (BitVec 2)} {p : Nat} (hp : p < l.length) (hword : p < 16) :
    (l.foldr pushIndex 0#32).extractLsb' (2 * p) 2 = l[p] := by
  induction l generalizing p with
  | nil => exact absurd hp (Nat.not_lt_zero p)
  | cons k rest ih =>
    cases p with
    | zero => exact extractLsb'_pushIndex_zero k _
    | succ p =>
      have hfits : 2 * p + 2 ≤ 30 := by omega
      exact (extractLsb'_pushIndex_add_two k _ hfits).trans (ih (Nat.lt_of_succ_lt_succ hp) (Nat.lt_of_succ_lt hword))

/-- Settles O50: the stream is the fold of `pushIndex` over the pixels' indices, and field `p` of the fold is index `p`. -/
theorem indexStreamHoldsEachPixelsIndex : Obligations.IndexStreamHoldsEachPixelsIndex := by
  intro T P p
  have hp : p.val < (P.toList.map (indexOf T)).length := by simp
  rw [encodeIndices_eq_foldr_map, extractLsb'_foldr_pushIndex hp p.isLt, List.getElem_map]
  rfl

end Sys2Proof.Machine
end

section
/-! The first minimum as the lexicographic minimum of the keys, which every reduction tree answers (45 R196, R197). -/

namespace Sys2Proof.Machine

/-- Settles O51: the scan answers the first minimum. -/
theorem selectIsTheFirstMinimum : Obligations.SelectIsTheFirstMinimum := by
  intro S hS
  obtain ⟨m, hfirst⟩ := exists_firstMin_select hS
  exact ⟨m, hfirst.attained, hfirst.least, hfirst.first⟩

/-- The order of `keyLess` is the lexicographic one (45 R197). -/
theorem keyLess_iff {x y : Nat × Nat} : keyLess y x ↔ toLex y < toLex x := Prod.Lex.toLex_lt_toLex.symm

/-- A comparator answers the lexicographically smaller of its inputs (45 R197). -/
@[simp] theorem toLex_keyMin (x y : Nat × Nat) : toLex (keyMin x y) = min (toLex x) (toLex y) := by
  rw [keyMin]
  split
  · next hlt => exact (min_eq_right (keyLess_iff.mp hlt).le).symm
  · next hge => exact (min_eq_left (not_lt.mp (mt keyLess_iff.mpr hge))).symm

/-- A comparator answers one of its inputs (45 R197). -/
theorem keyMin_eq_or (x y : Nat × Nat) : keyMin x y = x ∨ keyMin x y = y := (ite_eq_or_eq ..).symm

/-- A tree answers the key of one of its leaves (45 R197). -/
theorem KeyTree.reduce_mem_keys (t : KeyTree) : t.reduce ∈ t.keys := by
  induction t with
  | leaf s k => exact List.mem_singleton_self _
  | node l r ihl ihr =>
    rw [KeyTree.reduce, KeyTree.keys, List.mem_append]
    rcases keyMin_eq_or l.reduce r.reduce with heq | heq <;> rw [heq]
    · exact .inl ihl
    · exact .inr ihr

/-- No leaf of a tree holds a smaller key than the tree answers (45 R197). -/
theorem KeyTree.reduce_le_of_mem_keys {t : KeyTree} {x : Nat × Nat} (hx : x ∈ t.keys) : toLex t.reduce ≤ toLex x := by
  induction t with
  | leaf s k => exact (congrArg toLex (List.mem_singleton.mp hx)).ge
  | node l r ihl ihr =>
    rw [KeyTree.reduce, toLex_keyMin]
    rcases List.mem_append.mp hx with hx | hx
    · exact min_le_of_left_le (ihl hx)
    · exact min_le_of_right_le (ihr hx)

/-- A tree answers the key among its leaves that is no greater than any of them (45 R197). -/
theorem KeyTree.reduce_eq_of_least {t : KeyTree} {x : Nat × Nat} (hx : x ∈ t.keys) (hleast : ∀ y ∈ t.keys, toLex x ≤ toLex y) :
    t.reduce = x :=
  toLex.injective (le_antisymm (KeyTree.reduce_le_of_mem_keys hx) (hleast _ t.reduce_mem_keys))

/-- The keys of a score list are its scores, each with its number (45 R197). -/
theorem mem_keysOf {S : List Nat} {s k : Nat} : (s, k) ∈ keysOf S ↔ S[k]? = some s := by
  rw [keysOf, List.range_eq_range', ← List.zipIdx_eq_zip_range', List.mk_mem_zipIdx_iff_getElem?]

/-- A slot holds a candidate's key, or is not enabled and holds the sentinel score (45 R197, D22). -/
theorem of_mem_paddedKeys {S : List Nat} {size s k : Nat} (h : (s, k) ∈ paddedKeys S size) :
    S[k]? = some s ∨ s = 2 ^ 23 := by
  rcases List.mem_append.mp h with h | h
  · exact .inl (mem_keysOf.mp h)
  · obtain ⟨_, -, heq⟩ := List.mem_map.mp h
    exact .inr (congrArg Prod.fst heq).symm

/-- The first minimum comes no later in the order of the keys than any candidate (45 R196, R197). -/
theorem FirstMin.key_le {S : List Nat} {win m s k : Nat} (h : FirstMin S win m) (hs : S[k]? = some s) :
    toLex (m, win) ≤ toLex (s, k) := by
  rw [Prod.Lex.toLex_le_toLex]
  rcases Nat.lt_or_ge k win with hlt | hge
  · exact .inl (h.first k s hlt hs)
  · exact (h.least s (List.mem_of_getElem? hs)).lt_or_eq.imp_right fun heq => ⟨heq, hge⟩

/-- Where the scores are below the sentinel, the first minimum comes no later than any slot (45 R197, D22). -/
theorem FirstMin.key_le_of_mem_paddedKeys {S : List Nat} {win m size : Nat} (h : FirstMin S win m) (hm : m < 2 ^ 23)
    {x : Nat × Nat} (hx : x ∈ paddedKeys S size) : toLex (m, win) ≤ toLex x := by
  rcases of_mem_paddedKeys hx with hs | hsentinel
  · exact h.key_le hs
  · exact (Prod.Lex.toLex_lt_toLex.mpr (.inl (hsentinel ▸ hm))).le

/-- Settles O52: the first minimum is the least of the padded keys, and every tree answers the least of its keys. -/
theorem everyReductionTreeSelectsTheSame : Obligations.EveryReductionTreeSelectsTheSame := by
  intro S size t hS hbound _ hperm
  obtain ⟨m, hfirst⟩ := exists_firstMin_select hS
  have hm : m < 2 ^ 23 := hbound m (List.mem_of_getElem? hfirst.attained)
  have hmem : (m, select S) ∈ paddedKeys S size := List.mem_append_left _ (mem_keysOf.mpr hfirst.attained)
  have hreduce : t.reduce = (m, select S) := KeyTree.reduce_eq_of_least (hperm.mem_iff.mpr hmem)
    fun _ hx => hfirst.key_le_of_mem_paddedKeys hm (hperm.mem_iff.mp hx)
  rw [hreduce]
  exact ⟨hfirst.attained.symm, rfl⟩

end Sys2Proof.Machine
end

section
/-! The best candidate, its score and its block (45 R200). -/

namespace Sys2Proof.Machine

/-- A candidate's score stands at the candidate's number (45 R200). -/
theorem getElem?_scoresOf_eq_some_iff {cand : List EndpointPair} {P : Block} {k s : Nat} :
    (scoresOf cand P)[k]? = some s ↔ ∃ c, cand[k]? = some c ∧ score (candTable c) P = s := by
  rw [scoresOf, List.getElem?_map, Option.map_eq_some_iff]

/-- The block answered is the winning candidate's (45 R200 step 4). -/
theorem encodeBlock_blk_of_getElem? {P : Block} {q : BitVec 8} {c : EndpointPair}
    (h : (buildEndpoints P q)[(encodeBlock P q).win]? = some c) : (encodeBlock P q).blk = blockWith c P := by
  have hwinner : (buildEndpoints P q).getD (encodeBlock P q).win (baseline P) = c := by
    rw [List.getD_eq_getElem?_getD, h, Option.getD_some]
  exact congrArg (blockWith · P) hwinner

/-- Settles O55: winner and score are the first minimum of the candidates' scores, and the block is the winner's. -/
theorem encodeBlockReturnsTheBestCandidate : Obligations.EncodeBlockReturnsTheBestCandidate := by
  intro P q
  have hfirst := firstMin_encodeBlock P q
  obtain ⟨c, hc, hsc⟩ := getElem?_scoresOf_eq_some_iff.mp hfirst.attained
  refine ⟨c, hc, hsc.symm, encodeBlock_blk_of_getElem? hc, Nat.le_of_lt_succ (encodeBlock_win_lt_nCandMax P q),
    (encodeBlock_sc_le_maxScore P q).trans_lt (by decide), fun k d hd => ?_⟩
  have hscore : (scoresOf (buildEndpoints P q) P)[k]? = some (score (candTable d) P) :=
    getElem?_scoresOf_eq_some_iff.mpr ⟨d, hd, rfl⟩
  exact ⟨hfirst.least _ (List.mem_of_getElem? hscore), fun hk => hfirst.first k _ hk hscore⟩

end Sys2Proof.Machine
end

section
/-! The blocks of an image and its output stream (46 R216 to R219). -/

namespace Sys2Proof.Machine

section ConstantPieces

variable {α β : Type} {f : α → List β} {n : Nat} (hf : ∀ a, (f a).length = n)
include hf

/-- Joining pieces of `n` elements gives `n` elements for each. -/
theorem length_flatMap_of_forall_length_eq (l : List α) : (l.flatMap f).length = l.length * n := by
  simp [List.length_flatMap, hf]

/-- When every piece has `n` elements, piece `k` stands at offset `k * n`. -/
theorem take_drop_flatMap_of_getElem? {l : List α} {k : Nat} {a : α} (ha : l[k]? = some a) :
    ((l.flatMap f).drop (k * n)).take n = f a := by
  induction l generalizing k with
  | nil => simp at ha
  | cons x rest ih =>
    rw [List.flatMap_cons]
    cases k with
    | zero =>
      obtain rfl : x = a := by simpa using ha
      rw [Nat.zero_mul, List.drop_zero, List.take_left' (hf x)]
    | succ k =>
      have hskip : (k + 1) * n = (f x).length + k * n := by rw [hf, Nat.succ_mul, Nat.add_comm]
      rw [hskip, List.drop_append, List.drop_of_length_le (by omega)]
      simpa using ih (by simpa using ha)

end ConstantPieces

theorem length_bytesOfBlock (blk : BitVec 64) : (bytesOfBlock blk).length = 8 := by simp [bytesOfBlock]

/-- The blocks of one block row, left to right (46 R216). -/
def blockRow (img : Image) (br : Nat) : List Block := (List.range (img.width / 4)).map fun bx => blockAt img bx br

theorem length_blockRow (img : Image) (br : Nat) : (blockRow img br).length = img.width / 4 := by simp [blockRow]

theorem blocksOf_eq_flatMap_blockRow (img : Image) : blocksOf img = (List.range (img.height / 4)).flatMap (blockRow img) := rfl

theorem length_blocksOf (img : Image) : (blocksOf img).length = (img.width / 4) * (img.height / 4) := by
  rw [blocksOf_eq_flatMap_blockRow, length_flatMap_of_forall_length_eq (length_blockRow img), List.length_range, Nat.mul_comm]

/-- The block in column `bx` of block row `br` has the row-major number (46 R216). -/
theorem getElem?_blocksOf (img : Image) {bx br : Nat} (hbx : bx < img.width / 4) (hbr : br < img.height / 4) :
    (blocksOf img)[br * (img.width / 4) + bx]? = some (blockAt img bx br) := by
  have hrow : ((blocksOf img).drop (br * (img.width / 4))).take (img.width / 4) = blockRow img br :=
    take_drop_flatMap_of_getElem? (length_blockRow img) (List.getElem?_range hbr)
  rw [← List.getElem?_drop, ← List.getElem?_take_of_lt hbx, hrow, blockRow, List.getElem?_map, List.getElem?_range hbx]
  rfl

/-- The pixels of a block are those of its tile (46 R216). -/
theorem getElem?_blockAt (img : Image) (bx br : Nat) (x y : Fin 4) :
    (blockAt img bx br)[4 * y.val + x.val]? = some (img.pixel (4 * bx + x.val) (4 * br + y.val)) := by
  have hk : 4 * y.val + x.val < 16 := by omega
  have hx : (4 * y.val + x.val) % 4 = x.val := by omega
  have hy : (4 * y.val + x.val) / 4 = y.val := by omega
  simp [blockAt, hk, hx, hy]

/-- Settles O59: rows are pieces of equal length in the list of blocks, and blocks are in the stream. -/
theorem streamHoldsEveryBlockInOrder : Obligations.StreamHoldsEveryBlockInOrder := by
  intro img quality
  have hpiece : ∀ P : Block, (bytesOfBlock (encodeBlock P quality).blk).length = 8 := fun P => length_bytesOfBlock _
  refine ⟨?_, fun bx br hbx hbr => ⟨getElem?_blocksOf img hbx hbr, ?_, getElem?_blockAt img bx br⟩⟩
  · rw [streamOf, length_flatMap_of_forall_length_eq hpiece, length_blocksOf]
  · rw [Nat.mul_comm 8]
    exact take_drop_flatMap_of_getElem? hpiece (getElem?_blocksOf img hbx hbr)

end Sys2Proof.Machine
end

section
/-! The host's sequence for one image (46 R217 to R221). -/

namespace Sys2Proof.Machine

/-- Loading a Block's colour words loads the Block (30_encoding R80, 40 R106). -/
theorem blockOf_wordsOfBlock (P : Block) : blockOf (wordsOfBlock P) = P := by
  apply Vector.toList_inj.mp
  simp [blockOf, wordsOfBlock, Function.comp_def, colorOfWord_wordOfColor]

theorem exec_rerr (s : State) : exec .rerr s = .next (s.reply (zext32 s.regs.err)) := rfl

/-- The host clears the faults of any state, without a draw (46 R217 step 1). -/
theorem exists_hostClearFaults (s : State) :
    ∃ t, hostClearFaults s = .next t ∧ t.regs.err = 0#5 ∧ t.draws = s.draws := by
  rw [hostClearFaults, exec_rerr, thenDo_next, lastRead_reply]
  split
  · next herr => exact ⟨_, rfl, (zext32_err_eq_zero _).mp herr, rfl⟩
  · exact ⟨_, rfl, rfl, rfl⟩

/-- The state with the image's dimensions written, as 32-bit words (46 R217 step 1). -/
def State.withDimensions (s : State) (img : Image) : State := (s.setImgW (.ofNat 32 img.width)).setImgH (.ofNat 32 img.height)

/-- The dimensions as written are multiples of 4 exactly when the image's own are (40 R107, 46 R220). -/
theorem dimensionsValid_iff_withDimensions (img : Image) (s : State) : dimensionsValid img = true ↔
    (s.withDimensions img).regs.imgW.toNat % 4 = 0 ∧ (s.withDimensions img).regs.imgH.toNat % 4 = 0 := by
  have hcut : ∀ n, (BitVec.ofNat 32 n).toNat % 4 = n % 4 := fun n => by
    rw [BitVec.toNat_ofNat, Nat.mod_mod_of_dvd n (by decide)]
  change _ ↔ (BitVec.ofNat 32 img.width).toNat % 4 = 0 ∧ (BitVec.ofNat 32 img.height).toNat % 4 = 0
  rw [hcut, hcut, dimensionsValid, Bool.and_eq_true, beq_iff_eq, beq_iff_eq]

/-- What the host's sequence does after `cmd.frame`, by `ERR.DIM` (46 R217 step 1, R220). -/
theorem hostEncode_of_execCmdFrame {img : Image} {s s₁ t : State} (quality : BitVec 8) (hclear : hostClearFaults s = .next s₁)
    (hframe : execCmdFrame (s₁.withDimensions img) = .next t) :
    hostEncode img quality s =
      if (zext32 t.regs.err).getLsbD 0 then .next (t.reply (zext32 t.regs.err), .invalidDimensions)
      else hostEncodeBlocks img quality (t.reply (zext32 t.regs.err)) := by
  have hops : runOps (frameOps (.ofNat 32 img.width) (.ofNat 32 img.height) ++ [.rerr]) s₁ =
      thenDo (execCmdFrame (s₁.withDimensions img)) (runOps [.rerr]) := rfl
  rw [hostEncode, hclear, thenDo_next, hops, hframe, thenDo_next, runOps_cons, exec_rerr, thenDo_next, runOps_nil,
    thenDo_next, lastRead_reply]

/-- From `s` to `t` the host encoded the blocks `Ps`: the totals have grown by their scores and number modulo their widths,
and no fault and no draw was added (46 R217 steps 2 and 3, R221). -/
structure BlocksEncoded (s : State) (Ps : List Block) (t : State) : Prop where
  err : t.regs.err = s.regs.err
  quality : t.regs.quality = s.regs.quality
  draws : t.draws = s.draws
  dist : t.regs.dist = s.regs.dist + BitVec.ofNat 64 (Ps.map fun P => (encodeBlock P s.regs.quality).sc).sum
  blkCnt : t.regs.blkCnt = s.regs.blkCnt + BitVec.ofNat 32 Ps.length

theorem BlocksEncoded.nil (s : State) : BlocksEncoded s [] s := ⟨rfl, rfl, rfl, by simp, by simp⟩

theorem BlocksEncoded.cons {s t u : State} {P : Block} {Ps : List Block} (h : BlocksEncoded s [P] t)
    (hrest : BlocksEncoded t Ps u) : BlocksEncoded s (P :: Ps) u where
  err := hrest.err.trans h.err
  quality := hrest.quality.trans h.quality
  draws := hrest.draws.trans h.draws
  dist := by rw [hrest.dist, h.dist, h.quality, BitVec.add_assoc, ← BitVec.ofNat_add]; simp
  blkCnt := by rw [hrest.blkCnt, h.blkCnt, BitVec.add_assoc, ← BitVec.ofNat_add, List.length_cons, Nat.add_comm]; rfl

/-- The state with a block loaded and the result of its encode committed (46 R217 step 2, 40 R106). -/
def State.commitBlock (s : State) (P : Block) : State :=
  (s.withBlock (wordsOfBlock P)).commitResult (encodeBlock P s.regs.quality).blk (encodeBlock P s.regs.quality).sc
    (encodeBlock P s.regs.quality).win

theorem execCmdEnc_withBlock {s : State} (herr : s.regs.err = 0#5) (P : Block) :
    execCmdEnc (s.withBlock (wordsOfBlock P)) = .next (s.commitBlock P) := by
  have hresult : encodeRegs (s.withBlock (wordsOfBlock P)).regs = encodeBlock P s.regs.quality :=
    congrArg (encodeBlock · s.regs.quality) (blockOf_wordsOfBlock P)
  rw [State.commitBlock, ← hresult]
  exact execCmdEnc_ready herr rfl

/-- One block: its 8 bytes are appended to the stream (46 R217 steps 2 and 3, R218). -/
theorem exists_hostBlock {s : State} (herr : s.regs.err = 0#5) (P : Block) (bytes : List Byte) :
    ∃ t, hostBlock P (s, bytes) = .next (t, bytes ++ bytesOfBlock (encodeBlock P s.regs.quality).blk) ∧
      BlocksEncoded s [P] t := by
  have hlo : exec .routlo (s.commitBlock P) = .next ((s.commitBlock P).reply (lowHalf (encodeBlock P s.regs.quality).blk)) := rfl
  have hhi : ∀ v, exec .routhi ((s.commitBlock P).reply v) =
      .next (((s.commitBlock P).reply v).reply (highHalf (encodeBlock P s.regs.quality).blk)) := fun _ => rfl
  rw [hostBlock, runOps_append, runOps_ldblk, thenDo_next, runOps_cons, exec_cmdEnc, execCmdEnc_withBlock herr, thenDo_next,
    runOps_cons, hlo, thenDo_next, runOps_nil, thenDo_next, hhi, thenDo_next, lastRead_reply, lastRead_reply,
    List.append_assoc, ← bytesOfBlock_eq_halves]
  exact ⟨_, rfl, rfl, rfl, rfl, rfl, rfl⟩

/-- The blocks of a list: the stream grows by 8 bytes for each, in order (46 R217, R218). -/
theorem exists_hostBlocks {s : State} (herr : s.regs.err = 0#5) (Ps : List Block) (bytes : List Byte) :
    ∃ t, hostBlocks Ps (s, bytes) =
        .next (t, bytes ++ Ps.flatMap fun P => bytesOfBlock (encodeBlock P s.regs.quality).blk) ∧
      BlocksEncoded s Ps t := by
  induction Ps generalizing s bytes with
  | nil => exact ⟨s, by rw [List.flatMap_nil, List.append_nil]; rfl, .nil s⟩
  | cons P Ps ih =>
    obtain ⟨t, hrun, hP⟩ := exists_hostBlock herr P bytes
    obtain ⟨u, hrest, hPs⟩ := ih (hP.err.trans herr) (bytes ++ bytesOfBlock (encodeBlock P s.regs.quality).blk)
    refine ⟨u, ?_, hP.cons hPs⟩
    rw [hostBlocks, hrun, thenDo_next, hrest, hP.quality, List.flatMap_cons, List.append_assoc]

/-- The data the host writes for a quality leaves that quality in the register (30_encoding R73, 40 R101). -/
theorem qualityOfData_zext32 (q : BitVec 8) : qualityOfData (zext32 q) = q := by
  rw [qualityOfData, zext32, ← BitVec.setWidth_eq_extractLsb' (by decide), BitVec.setWidth_setWidth_of_le _ (by decide),
    BitVec.setWidth_eq]

/-- With no fault pending, the end of the sequence keeps the stream and changes no register (46 R217 step 4, 70 R277). -/
theorem exists_readTotals_hostFinish {s : State} (herr : s.regs.err = 0#5) (bytes : List Byte) :
    ∃ t, thenDo (runOps (getdist ++ [.rblkcnt]) s) (hostFinish bytes) = .next (t, .stream bytes) ∧
      t.regs = s.regs ∧ t.draws = s.draws := by
  have hreads : runOps (getdist ++ [.rblkcnt]) s =
      .next (((s.reply (lowHalf s.regs.dist)).reply (highHalf s.regs.dist)).reply s.regs.blkCnt) := rfl
  rw [hreads, thenDo_next, hostFinish_eq, State.reply_regs, State.reply_regs, State.reply_regs, if_pos herr]
  exact ⟨_, rfl, rfl, rfl⟩

/-- After a successful `frame`: the stream of the image, and its totals (46 R217 steps 2 to 4, R221). -/
theorem exists_hostEncodeBlocks (img : Image) (quality : BitVec 8) {s : State} (herr : s.regs.err = 0#5)
    (hdist : s.regs.dist = 0#64) (hcnt : s.regs.blkCnt = 0#32) :
    ∃ t, hostEncodeBlocks img quality s = .next (t, .stream (streamOf img quality)) ∧
      t.regs.err = 0#5 ∧ t.draws = s.draws ∧ t.regs.dist = BitVec.ofNat 64 (totalDistortion img quality) ∧
      t.regs.blkCnt = BitVec.ofNat 32 (blocksOf img).length := by
  obtain ⟨t, hrun, hblocks⟩ := exists_hostBlocks (s := s.setQuality quality) herr (blocksOf img) []
  obtain ⟨u, hfinish, hregs, hdraws⟩ := exists_readTotals_hostFinish (hblocks.err.trans herr) (streamOf img quality)
  refine ⟨u, ?_, ?_, hdraws.trans hblocks.draws, ?_, ?_⟩
  · rw [hostEncodeBlocks, exec_wqual, qualityOfData_zext32, thenDo_next, hrun, thenDo_next]
    exact hfinish
  · rw [hregs, hblocks.err, State.setQuality_regs, herr]
  · rw [hregs, hblocks.dist, State.setQuality_regs, hdist, BitVec.zero_add]
    rfl
  · rw [hregs, hblocks.blkCnt, State.setQuality_regs, hcnt, BitVec.zero_add]

/-- `frame` on dimensions that are not multiples of 4: the host stops with InvalidDimensions and no byte (46 R217, R220). -/
theorem exists_hostEncode_of_invalid {img : Image} (quality : BitVec 8) (s : State) (hdim : dimensionsValid img = false) :
    ∃ t, hostEncode img quality s = .next (t, .invalidDimensions) ∧ t.regs.err = 0b00001#5 := by
  obtain ⟨s₁, hclear, herr, -⟩ := exists_hostClearFaults s
  have hwritten : (s₁.withDimensions img).regs.err = 0#5 := herr
  have hframe : execCmdFrame (s₁.withDimensions img) = .next ((s₁.withDimensions img).raise .invalidDimensions) :=
    execCmdFrame_invalid hwritten ((dimensionsValid_iff_withDimensions img s₁).not.mp (ne_true_of_eq_false hdim))
  have hend : ((s₁.withDimensions img).raise .invalidDimensions).regs.err = 0b00001#5 := by
    rw [State.raise_of_err_eq_zero hwritten]
    rfl
  exact ⟨State.reply _ _, (hostEncode_of_execCmdFrame quality hclear hframe).trans (if_pos (by rw [hend]; decide)), hend⟩

/-- `frame` on dimensions that are multiples of 4: the totals are cleared and the host encodes the blocks (46 R217). -/
theorem exists_hostEncode_of_valid {img : Image} (quality : BitVec 8) (s : State) (hdim : dimensionsValid img = true) :
    ∃ t, hostEncode img quality s = .next (t, .stream (streamOf img quality)) ∧
      t.regs.err = 0#5 ∧ t.draws = s.draws ∧ t.regs.dist = BitVec.ofNat 64 (totalDistortion img quality) ∧
      t.regs.blkCnt = BitVec.ofNat 32 (blocksOf img).length := by
  obtain ⟨s₁, hclear, herr, hdraws⟩ := exists_hostClearFaults s
  have hready : (s₁.withDimensions img).frameReady := ⟨herr, (dimensionsValid_iff_withDimensions img s₁).mp hdim⟩
  have hend : (s₁.withDimensions img).clearTotals.regs.err = 0#5 := herr
  rw [hostEncode_of_execCmdFrame quality hclear (execCmdFrame_ready hready), hend, if_neg (by decide), ← hdraws]
  exact exists_hostEncodeBlocks img quality hend rfl rfl

/-- Settles O60: `frame` passes exactly for valid dimensions, and then the blocks are encoded in turn. -/
theorem hostSequenceEncodesTheImage : Obligations.HostSequenceEncodesTheImage := by
  intro img quality s
  refine ⟨fun hdim => ?_, fun hdim => ?_⟩
  · have hresult : encodeImage img quality = .stream (streamOf img quality) := if_pos hdim
    obtain ⟨t, hrun, herr, hdraws, htotals⟩ := exists_hostEncode_of_valid quality s hdim
    exact ⟨t, hresult ▸ hrun, by rw [runGoneWrong, herr, hdraws]; simp, hresult, htotals⟩
  · have hresult : encodeImage img quality = .invalidDimensions := by rw [encodeImage, hdim]; rfl
    obtain ⟨t, hrun, herr⟩ := exists_hostEncode_of_invalid quality s hdim
    exact ⟨t, hresult ▸ hrun, hresult, herr⟩

end Sys2Proof.Machine
end

section
/-! What every operation answers, what it raises, and what a pending fault rules out (60 R236, R239, R243, R246). -/

namespace Sys2Proof.Machine

/-- `ERR` has a bit for every fault of the core (60 R237). -/
theorem CoreFault.code_lt_five (f : CoreFault) : f.code < 5 := by cases f <;> decide

/-- No operation stops the machine: every path of every meaning answers a next state (60 R236, R239). -/
theorem exists_exec_eq_next (i : Instr) (s : State) : ∃ t, exec i s = .next t := by
  cases i with
  | cmdEnc => rcases execCmdEnc_cases s with ⟨-, hs⟩ | ⟨-, -, hs⟩ | ⟨-, -, hs⟩ <;> exact ⟨_, hs⟩
  | cmdFrame => rcases execCmdFrame_cases s with ⟨-, hs⟩ | ⟨-, -, hs⟩ | ⟨-, -, hs⟩ <;> exact ⟨_, hs⟩
  | _ => exact ⟨_, rfl⟩

section Effect

variable {s t : State} {i : Instr} (h : OpEffect s i t)
include h

/-- No operation touches the moves still pending (00_scope R12). -/
theorem OpEffect.pending_eq : t.pending = s.pending := by
  cases h with
  | replied => exact State.replyIf_pending ..
  | _ => rfl

/-- An operation that does not clear faults raises none or one (60 R243). -/
theorem OpEffect.err_eq_or_errWith (hkeep : clearsFaults i = false) :
    t.regs.err = s.regs.err ∨ ∃ f, t.regs.err = errWith s.regs.err f := by
  cases h with
  | faultsCleared | coreReset => cases hkeep
  | encFaulted | frameFaulted | commandFaulted | writeFaulted | readFaulted => exact .inr ⟨_, rfl⟩
  | replied => exact .inl (congrArg Regs.err (State.replyIf_regs ..))
  | _ => exact .inl rfl

/-- A pending fault stays pending until an operation that clears faults (60 R246). -/
theorem OpEffect.err_ne_zero (hkeep : clearsFaults i = false) (herr : s.regs.err ≠ 0#5) : t.regs.err ≠ 0#5 := by
  rcases h.err_eq_or_errWith hkeep with heq | ⟨f, heq⟩ <;> rw [heq]
  · exact herr
  · exact ne_of_apply_ne errAny (by rw [errAny_errWith]; decide)

/-- While a fault is pending the two success paths, of `cmd.enc` and of `cmd.frame`, are shut, and no other path writes a packed
block or a total (60 R246). -/
theorem OpEffect.nothing_encoded_of_err_ne_zero (hkeep : clearsFaults i = false) (herr : s.regs.err ≠ 0#5) :
    t.regs.out = s.regs.out ∧ t.regs.score = s.regs.score ∧ t.regs.winner = s.regs.winner ∧
    t.regs.dist = s.regs.dist ∧ t.regs.blkCnt = s.regs.blkCnt ∧ (t.regs.rv = true → s.regs.rv = true) := by
  cases h with
  | encoded hready | totalsCleared hready =>
    obtain ⟨hzero, -⟩ := hready
    exact absurd hzero herr
  | coreReset => cases hkeep
  | encFaulted => exact ⟨rfl, rfl, rfl, rfl, rfl, nofun⟩
  | replied => simp
  | _ => exact ⟨rfl, rfl, rfl, rfl, rfl, id⟩

end Effect

/-- Settles O23: every operation answers a next state, and its effect leaves the pending moves alone. -/
theorem everyTransactionCompletes : Obligations.EveryTransactionCompletes := by
  intro i s
  obtain ⟨t, ht⟩ := exists_exec_eq_next i s
  exact ⟨t, ht, (opEffect_of_exec ht).pending_eq⟩

/-- Settles O29: the fault raised, if there is one, sets the bit of its code. -/
theorem oneFaultPerTransaction : Obligations.OneFaultPerTransaction := by
  intro i s t hexec hkeep
  rcases (opEffect_of_exec hexec).err_eq_or_errWith hkeep with heq | ⟨f, hor⟩
  · exact .inl heq
  · exact .inr ⟨f.code, f.code_lt_five, hor⟩

/-- Settles O30: the fault stays pending, and the effects possible while it does produce no block and no total. -/
theorem nothingIsEncodedWhileAFaultIsPending : Obligations.NothingIsEncodedWhileAFaultIsPending :=
  fun _ _ _ hexec hkeep herr =>
    ⟨(opEffect_of_exec hexec).err_ne_zero hkeep herr, (opEffect_of_exec hexec).nothing_encoded_of_err_ne_zero hkeep herr⟩

/-- Settles O3: the core waits with nothing pending, and a reset leaves `Regs.afterReset`. -/
theorem stepWaitsAndTakesResets : Obligations.StepWaitsAndTakesResets :=
  ⟨fun _ => step_of_pending_nil,
    fun _ _ hpending => ⟨_, step_of_pending_reset hpending, Regs.afterReset_resetValues _, rfl, rfl, rfl⟩⟩

end Sys2Proof.Machine
end
